-- ==== Sys2Proof/Word.lean ====
section
/-! DEFINITION. The word types of the 6502: the byte of every register and datum but PC, and the 16-bit address
(spec/00_scope.md R1, R4 `XLEN`, `PCLEN`; spec/20_memory.md R40, R41). -/

namespace Sys2Proof

/-- A byte: every register but PC, every datum, every memory cell (R41). -/
abbrev Byte := BitVec 8

/-- An address, and PC (R15, R40). -/
abbrev Addr := BitVec 16

end Sys2Proof
end

