-- ==== Sys2Proof/Syntax.lean ====
section
/-! DEFINITION. The instructions as syntax: one constructor for each of the 151 rows of spec/opcode_table.json, in the
order of spec/30_encoding.md R90, and the 13 operand forms of R73. A 1-byte operand is a `Byte`, a 2-byte operand an `Addr`
(R71), so every term of `Instr` is one the encoding can hold. -/

namespace Sys2Proof

/-- The 13 operand forms (R73). -/
inductive Form where
  | none
  | accumulator
  | immediate
  | zeroPage
  | zeroPageX
  | zeroPageY
  | absolute
  | absoluteX
  | absoluteY
  | indX
  | indY
  | indirect
  | relative
deriving DecidableEq, Repr

/-- The length in bytes of an instruction of a form, opcode included (R70, R73). -/
def Form.length : Form → Nat
  | .none | .accumulator => 1
  | .immediate | .zeroPage | .zeroPageX | .zeroPageY | .indX | .indY | .relative => 2
  | .absolute | .absoluteX | .absoluteY | .indirect => 3

/-- The instructions (R90). The suffix of a constructor is its operand form: `Imm` #n, `Zp` n, `ZpX` n,X, `ZpY` n,Y,
`Abs` nn, `AbsX` nn,X, `AbsY` nn,Y, `IndX` (n,X), `IndY` (n),Y, `Ind` (nn), `Acc` A; a branch and an instruction without
operand have none. -/
inductive Instr where
  -- ADC, Add with carry to A (R111)
  | adcImm (n : Byte)
  | adcAbs (nn : Addr)
  | adcZp (n : Byte)
  | adcIndX (n : Byte)
  | adcIndY (n : Byte)
  | adcZpX (n : Byte)
  | adcAbsX (nn : Addr)
  | adcAbsY (nn : Addr)
  -- AND, AND to A (R121)
  | andImm (n : Byte)
  | andAbs (nn : Addr)
  | andZp (n : Byte)
  | andIndX (n : Byte)
  | andIndY (n : Byte)
  | andZpX (n : Byte)
  | andAbsX (nn : Addr)
  | andAbsY (nn : Addr)
  -- ASL, Arithmetic shift left (R131)
  | aslAbs (nn : Addr)
  | aslZp (n : Byte)
  | aslAcc
  | aslZpX (n : Byte)
  | aslAbsX (nn : Addr)
  -- BCC, Branch if carry clear (C=0) (R141)
  | bcc (n : Byte)
  -- BCS, Branch if carry set (C=1) (R142)
  | bcs (n : Byte)
  -- BEQ, Branch if equal (Z=1) (R143)
  | beq (n : Byte)
  -- BNE, Branch if not equal (Z=0) (R144)
  | bne (n : Byte)
  -- BMI, Branch if minus (N=1) (R145)
  | bmi (n : Byte)
  -- BPL, Branch if plus (N=0) (R146)
  | bpl (n : Byte)
  -- BVC, Branch if ovfl clear (V=0) (R147)
  | bvc (n : Byte)
  -- BVS, Branch if ovfl set (V=1) (R148)
  | bvs (n : Byte)
  -- BIT, AND with A (A unchanged) (R124)
  | bitAbs (nn : Addr)
  | bitZp (n : Byte)
  -- BRK, Break (force interrupt) (R160)
  | brk
  -- CLC, Clear carry (R171)
  | clc
  -- CLD, Clear decimal mode (R172)
  | cld
  -- CLI, Clear IRQ disable (R173)
  | cli
  -- CLV, Clear overflow (R174)
  | clv
  -- CMP, Compare with A (R114)
  | cmpImm (n : Byte)
  | cmpAbs (nn : Addr)
  | cmpZp (n : Byte)
  | cmpIndX (n : Byte)
  | cmpIndY (n : Byte)
  | cmpZpX (n : Byte)
  | cmpAbsX (nn : Addr)
  | cmpAbsY (nn : Addr)
  -- CPX, Compare with X (R115)
  | cpxImm (n : Byte)
  | cpxAbs (nn : Addr)
  | cpxZp (n : Byte)
  -- CPY, Compare with Y (R116)
  | cpyImm (n : Byte)
  | cpyAbs (nn : Addr)
  | cpyZp (n : Byte)
  -- DEC, Decrement by one (R181)
  | decAbs (nn : Addr)
  | decZp (n : Byte)
  | decZpX (n : Byte)
  | decAbsX (nn : Addr)
  -- DEX, Decrement X by one (R182)
  | dex
  -- DEY, Decrement Y by one (R183)
  | dey
  -- EOR, XOR to A (R122)
  | eorImm (n : Byte)
  | eorAbs (nn : Addr)
  | eorZp (n : Byte)
  | eorIndX (n : Byte)
  | eorIndY (n : Byte)
  | eorZpX (n : Byte)
  | eorAbsX (nn : Addr)
  | eorAbsY (nn : Addr)
  -- INC, Increment by one (R184)
  | incAbs (nn : Addr)
  | incZp (n : Byte)
  | incZpX (n : Byte)
  | incAbsX (nn : Addr)
  -- INX, Increment X by one (R185)
  | inx
  -- INY, Increment Y by one (R186)
  | iny
  -- JMP, Jump to new location (R149)
  | jmpAbs (nn : Addr)
  | jmpInd (nn : Addr)
  -- JSR, Jump to subroutine (R151)
  | jsrAbs (nn : Addr)
  -- LDA, Load A (R191)
  | ldaImm (n : Byte)
  | ldaAbs (nn : Addr)
  | ldaZp (n : Byte)
  | ldaIndX (n : Byte)
  | ldaIndY (n : Byte)
  | ldaZpX (n : Byte)
  | ldaAbsX (nn : Addr)
  | ldaAbsY (nn : Addr)
  -- LDX, Load X (R192)
  | ldxImm (n : Byte)
  | ldxAbs (nn : Addr)
  | ldxZp (n : Byte)
  | ldxAbsY (nn : Addr)
  | ldxZpY (n : Byte)
  -- LDY, Load Y (R193)
  | ldyImm (n : Byte)
  | ldyAbs (nn : Addr)
  | ldyZp (n : Byte)
  | ldyZpX (n : Byte)
  | ldyAbsX (nn : Addr)
  -- LSR, Logical shift right (R132)
  | lsrAbs (nn : Addr)
  | lsrZp (n : Byte)
  | lsrAcc
  | lsrZpX (n : Byte)
  | lsrAbsX (nn : Addr)
  -- NOP, No operation (R162)
  | nop
  -- ORA, OR to A (R123)
  | oraImm (n : Byte)
  | oraAbs (nn : Addr)
  | oraZp (n : Byte)
  | oraIndX (n : Byte)
  | oraIndY (n : Byte)
  | oraZpX (n : Byte)
  | oraAbsX (nn : Addr)
  | oraAbsY (nn : Addr)
  -- PHA, Push A onto stack (R201)
  | pha
  -- PHP, Push P onto stack (R202)
  | php
  -- PLA, Pull (pop) A from stack (R203)
  | pla
  -- PLP, Pull (pop) P from stack (R204)
  | plp
  -- ROL, Rotate left through carry (R133)
  | rolAbs (nn : Addr)
  | rolZp (n : Byte)
  | rolAcc
  | rolZpX (n : Byte)
  | rolAbsX (nn : Addr)
  -- ROR, Rotate right through carry (R134)
  | rorAbs (nn : Addr)
  | rorZp (n : Byte)
  | rorAcc
  | rorZpX (n : Byte)
  | rorAbsX (nn : Addr)
  -- RTI, Return from interrupt (R161)
  | rti
  -- RTS, Return from subroutine (R152)
  | rts
  -- SBC, Subtrack with borrow from A (R113)
  | sbcImm (n : Byte)
  | sbcAbs (nn : Addr)
  | sbcZp (n : Byte)
  | sbcIndX (n : Byte)
  | sbcIndY (n : Byte)
  | sbcZpX (n : Byte)
  | sbcAbsX (nn : Addr)
  | sbcAbsY (nn : Addr)
  -- SEC, Set carry (R175)
  | sec
  -- SED, Set decimal mode (R176)
  | sed
  -- SEI, Set IRQ disable (R177)
  | sei
  -- STA, Store A (R194)
  | staAbs (nn : Addr)
  | staZp (n : Byte)
  | staIndX (n : Byte)
  | staIndY (n : Byte)
  | staZpX (n : Byte)
  | staAbsX (nn : Addr)
  | staAbsY (nn : Addr)
  -- STX, Store X (R195)
  | stxAbs (nn : Addr)
  | stxZp (n : Byte)
  | stxZpY (n : Byte)
  -- STY, Store Y (R196)
  | styAbs (nn : Addr)
  | styZp (n : Byte)
  | styZpX (n : Byte)
  -- TAX, Transfer A to X (R205)
  | tax
  -- TAY, Transfer A to Y (R206)
  | tay
  -- TSX, Transfer S to X (R207)
  | tsx
  -- TXA, Transfer X to A (R208)
  | txa
  -- TXS, Transfer X to S (R209)
  | txs
  -- TYA, Transfer Y to A (R210)
  | tya
deriving DecidableEq, Repr

end Sys2Proof
end

