-- ==== Sys2Proof/WellFormed.lean ====
section
/-! DEFINITION. The checks on an instruction as syntax. Operand widths are in the types (Syntax.lean), so two checks are
left: that the chip has the instruction (spec/30_encoding.md R94), and the card's requirement on software that a pointer named
by the instruction itself does not cross a page (R85, spec/70_reset_and_hazards.md R271). The first is what `wellFormed` means;
the second is a lint, because the hardware runs no check of it (for `(n,X)` it depends on X and no static check exists). -/

namespace Sys2Proof

/-- The five opcodes that "Pre 6/76 chips" lack (R94). -/
def Instr.isRor : Instr → Bool
  | .rorAbs _ | .rorZp _ | .rorAcc | .rorZpX _ | .rorAbsX _ => true
  | _ => false

/-- The chip has the instruction: every one of the 151, but for ROR on a chip with `HAS_ROR` = false (R90, R94). -/
def Instr.wellFormed (hasRor : Bool) (i : Instr) : Bool := hasRor || !i.isRor

/-- "2 bytes must not cross page boundary", for the forms whose pointer the instruction names: `(n),Y` and `(nn)` (R85). -/
def Instr.pointerInPage : Instr → Bool
  | .adcIndY n | .andIndY n | .cmpIndY n | .eorIndY n | .ldaIndY n | .oraIndY n | .sbcIndY n | .staIndY n => n != 0xFF
  | .jmpInd nn => nn.setWidth 8 != 0xFF#8
  | _ => true

end Sys2Proof
end

