-- ==== Sys2Proof/Decode.lean ====
section
/-! DEFINITION. The encoding (spec/30_encoding.md sections 1, 4 and 5): the opcode table of R90 with its columns OP, C and B,
the decoder, total on any bytes and rejecting by name, the encoder, written from the same table, and the helpers of R6 that take
words apart and put them together. -/

namespace Sys2Proof

/-! ## Bytes and words (R6) -/

/-- `lo(w)` (R6). -/
def lowByte (w : Addr) : Byte := w.setWidth 8

/-- `hi(w)` (R6). -/
def highByte (w : Addr) : Byte := (w >>> 8).setWidth 8

/-- `word(l, h)` (R6): `256*h + l`, the low byte first (R42). -/
def wordOf (l h : Byte) : Addr := h ++ l

/-- `zext_16(b)` (R6). -/
def zext16 (b : Byte) : Addr := b.setWidth 16

/-- `sext_16(b)` (R6), as a 16-bit two's complement number (log 31). -/
def sext16 (b : Byte) : Addr := b.signExtend 16

/-! ## The opcode table (R90) -/

/-- What follows an opcode: nothing, the byte n, or the 2-byte nn, low byte first (R71), and the instruction it makes. -/
inductive Template where
  | bare (i : Instr)
  | byte (f : Byte → Instr)
  | word (f : Addr → Instr)

/-- How many bytes the formats F1, F2 and F3 have (R71). -/
def Template.length : Template → Nat
  | .bare _ => 1
  | .byte _ => 2
  | .word _ => 3

/-- One line of the card's INSTRUCTION SET table (R90): mnemonic, operand form, OP, C, whether C carries a `+`, and the
instruction. -/
structure Row where
  mnemonic : String
  form : Form
  opcode : Byte
  cycles : Nat
  plus : Bool
  template : Template

/-- The rows of ADC, SBC, CMP, CPX, CPY (R90). -/
def arithmeticRows : List Row := [
  ⟨"ADC", .immediate, 0x69, 2, false, .byte .adcImm⟩,
  ⟨"ADC", .absolute, 0x6D, 4, false, .word .adcAbs⟩,
  ⟨"ADC", .zeroPage, 0x65, 3, false, .byte .adcZp⟩,
  ⟨"ADC", .indX, 0x61, 6, false, .byte .adcIndX⟩,
  ⟨"ADC", .indY, 0x71, 5, true, .byte .adcIndY⟩,
  ⟨"ADC", .zeroPageX, 0x75, 4, false, .byte .adcZpX⟩,
  ⟨"ADC", .absoluteX, 0x7D, 4, true, .word .adcAbsX⟩,
  ⟨"ADC", .absoluteY, 0x79, 4, true, .word .adcAbsY⟩,
  ⟨"SBC", .immediate, 0xE9, 2, false, .byte .sbcImm⟩,
  ⟨"SBC", .absolute, 0xED, 4, false, .word .sbcAbs⟩,
  ⟨"SBC", .zeroPage, 0xE5, 3, false, .byte .sbcZp⟩,
  ⟨"SBC", .indX, 0xE1, 6, false, .byte .sbcIndX⟩,
  ⟨"SBC", .indY, 0xF1, 5, true, .byte .sbcIndY⟩,
  ⟨"SBC", .zeroPageX, 0xF5, 4, false, .byte .sbcZpX⟩,
  ⟨"SBC", .absoluteX, 0xFD, 4, true, .word .sbcAbsX⟩,
  ⟨"SBC", .absoluteY, 0xF9, 4, true, .word .sbcAbsY⟩,
  ⟨"CMP", .immediate, 0xC9, 2, false, .byte .cmpImm⟩,
  ⟨"CMP", .absolute, 0xCD, 4, false, .word .cmpAbs⟩,
  ⟨"CMP", .zeroPage, 0xC5, 3, false, .byte .cmpZp⟩,
  ⟨"CMP", .indX, 0xC1, 6, false, .byte .cmpIndX⟩,
  ⟨"CMP", .indY, 0xD1, 5, true, .byte .cmpIndY⟩,
  ⟨"CMP", .zeroPageX, 0xD5, 4, false, .byte .cmpZpX⟩,
  ⟨"CMP", .absoluteX, 0xDD, 4, true, .word .cmpAbsX⟩,
  ⟨"CMP", .absoluteY, 0xD9, 4, true, .word .cmpAbsY⟩,
  ⟨"CPX", .immediate, 0xE0, 2, false, .byte .cpxImm⟩,
  ⟨"CPX", .absolute, 0xEC, 4, false, .word .cpxAbs⟩,
  ⟨"CPX", .zeroPage, 0xE4, 3, false, .byte .cpxZp⟩,
  ⟨"CPY", .immediate, 0xC0, 2, false, .byte .cpyImm⟩,
  ⟨"CPY", .absolute, 0xCC, 4, false, .word .cpyAbs⟩,
  ⟨"CPY", .zeroPage, 0xC4, 3, false, .byte .cpyZp⟩]

/-- The rows of AND, EOR, ORA, BIT (R90). -/
def logicRows : List Row := [
  ⟨"AND", .immediate, 0x29, 2, false, .byte .andImm⟩,
  ⟨"AND", .absolute, 0x2D, 4, false, .word .andAbs⟩,
  ⟨"AND", .zeroPage, 0x25, 3, false, .byte .andZp⟩,
  ⟨"AND", .indX, 0x21, 6, false, .byte .andIndX⟩,
  ⟨"AND", .indY, 0x31, 5, true, .byte .andIndY⟩,
  ⟨"AND", .zeroPageX, 0x35, 4, false, .byte .andZpX⟩,
  ⟨"AND", .absoluteX, 0x3D, 4, true, .word .andAbsX⟩,
  ⟨"AND", .absoluteY, 0x39, 4, true, .word .andAbsY⟩,
  ⟨"EOR", .immediate, 0x49, 2, false, .byte .eorImm⟩,
  ⟨"EOR", .absolute, 0x4D, 4, false, .word .eorAbs⟩,
  ⟨"EOR", .zeroPage, 0x45, 3, false, .byte .eorZp⟩,
  ⟨"EOR", .indX, 0x41, 6, false, .byte .eorIndX⟩,
  ⟨"EOR", .indY, 0x51, 5, true, .byte .eorIndY⟩,
  ⟨"EOR", .zeroPageX, 0x55, 4, false, .byte .eorZpX⟩,
  ⟨"EOR", .absoluteX, 0x5D, 4, true, .word .eorAbsX⟩,
  ⟨"EOR", .absoluteY, 0x59, 4, true, .word .eorAbsY⟩,
  ⟨"ORA", .immediate, 0x09, 2, false, .byte .oraImm⟩,
  ⟨"ORA", .absolute, 0x0D, 4, false, .word .oraAbs⟩,
  ⟨"ORA", .zeroPage, 0x05, 3, false, .byte .oraZp⟩,
  ⟨"ORA", .indX, 0x01, 6, false, .byte .oraIndX⟩,
  ⟨"ORA", .indY, 0x11, 5, true, .byte .oraIndY⟩,
  ⟨"ORA", .zeroPageX, 0x15, 4, false, .byte .oraZpX⟩,
  ⟨"ORA", .absoluteX, 0x1D, 4, true, .word .oraAbsX⟩,
  ⟨"ORA", .absoluteY, 0x19, 4, true, .word .oraAbsY⟩,
  ⟨"BIT", .absolute, 0x2C, 4, false, .word .bitAbs⟩,
  ⟨"BIT", .zeroPage, 0x24, 3, false, .byte .bitZp⟩]

/-- The rows of ASL, LSR, ROL, ROR (R90). -/
def shiftRows : List Row := [
  ⟨"ASL", .absolute, 0x0E, 6, false, .word .aslAbs⟩,
  ⟨"ASL", .zeroPage, 0x06, 5, false, .byte .aslZp⟩,
  ⟨"ASL", .accumulator, 0x0A, 2, false, .bare .aslAcc⟩,
  ⟨"ASL", .zeroPageX, 0x16, 6, false, .byte .aslZpX⟩,
  ⟨"ASL", .absoluteX, 0x1E, 7, false, .word .aslAbsX⟩,
  ⟨"LSR", .absolute, 0x4E, 6, false, .word .lsrAbs⟩,
  ⟨"LSR", .zeroPage, 0x46, 5, false, .byte .lsrZp⟩,
  ⟨"LSR", .accumulator, 0x4A, 2, false, .bare .lsrAcc⟩,
  ⟨"LSR", .zeroPageX, 0x56, 6, false, .byte .lsrZpX⟩,
  ⟨"LSR", .absoluteX, 0x5E, 7, false, .word .lsrAbsX⟩,
  ⟨"ROL", .absolute, 0x2E, 6, false, .word .rolAbs⟩,
  ⟨"ROL", .zeroPage, 0x26, 5, false, .byte .rolZp⟩,
  ⟨"ROL", .accumulator, 0x2A, 2, false, .bare .rolAcc⟩,
  ⟨"ROL", .zeroPageX, 0x36, 6, false, .byte .rolZpX⟩,
  ⟨"ROL", .absoluteX, 0x3E, 7, false, .word .rolAbsX⟩,
  ⟨"ROR", .absolute, 0x6E, 6, false, .word .rorAbs⟩,
  ⟨"ROR", .zeroPage, 0x66, 5, false, .byte .rorZp⟩,
  ⟨"ROR", .accumulator, 0x6A, 2, false, .bare .rorAcc⟩,
  ⟨"ROR", .zeroPageX, 0x76, 6, false, .byte .rorZpX⟩,
  ⟨"ROR", .absoluteX, 0x7E, 7, false, .word .rorAbsX⟩]

/-- The rows of BCC, BCS, BEQ, BNE, BMI, BPL, BVC, BVS, JMP, JSR, RTS (R90). -/
def branchRows : List Row := [
  ⟨"BCC", .relative, 0x90, 2, true, .byte .bcc⟩,
  ⟨"BCS", .relative, 0xB0, 2, true, .byte .bcs⟩,
  ⟨"BEQ", .relative, 0xF0, 2, true, .byte .beq⟩,
  ⟨"BNE", .relative, 0xD0, 2, true, .byte .bne⟩,
  ⟨"BMI", .relative, 0x30, 2, true, .byte .bmi⟩,
  ⟨"BPL", .relative, 0x10, 2, true, .byte .bpl⟩,
  ⟨"BVC", .relative, 0x50, 2, true, .byte .bvc⟩,
  ⟨"BVS", .relative, 0x70, 2, true, .byte .bvs⟩,
  ⟨"JMP", .absolute, 0x4C, 3, false, .word .jmpAbs⟩,
  ⟨"JMP", .indirect, 0x6C, 5, false, .word .jmpInd⟩,
  ⟨"JSR", .absolute, 0x20, 6, false, .word .jsrAbs⟩,
  ⟨"RTS", .none, 0x60, 6, false, .bare .rts⟩]

/-- The rows of BRK, RTI, NOP (R90). -/
def systemRows : List Row := [
  ⟨"BRK", .none, 0x00, 7, false, .bare .brk⟩,
  ⟨"RTI", .none, 0x40, 6, false, .bare .rti⟩,
  ⟨"NOP", .none, 0xEA, 2, false, .bare .nop⟩]

/-- The rows of CLC, CLD, CLI, CLV, SEC, SED, SEI (R90). -/
def flagRows : List Row := [
  ⟨"CLC", .none, 0x18, 2, false, .bare .clc⟩,
  ⟨"CLD", .none, 0xD8, 2, false, .bare .cld⟩,
  ⟨"CLI", .none, 0x58, 2, false, .bare .cli⟩,
  ⟨"CLV", .none, 0xB8, 2, false, .bare .clv⟩,
  ⟨"SEC", .none, 0x38, 2, false, .bare .sec⟩,
  ⟨"SED", .none, 0xF8, 2, false, .bare .sed⟩,
  ⟨"SEI", .none, 0x78, 2, false, .bare .sei⟩]

/-- The rows of DEC, DEX, DEY, INC, INX, INY (R90). -/
def incDecRows : List Row := [
  ⟨"DEC", .absolute, 0xCE, 6, false, .word .decAbs⟩,
  ⟨"DEC", .zeroPage, 0xC6, 5, false, .byte .decZp⟩,
  ⟨"DEC", .zeroPageX, 0xD6, 6, false, .byte .decZpX⟩,
  ⟨"DEC", .absoluteX, 0xDE, 7, false, .word .decAbsX⟩,
  ⟨"DEX", .none, 0xCA, 2, false, .bare .dex⟩,
  ⟨"DEY", .none, 0x88, 2, false, .bare .dey⟩,
  ⟨"INC", .absolute, 0xEE, 6, false, .word .incAbs⟩,
  ⟨"INC", .zeroPage, 0xE6, 5, false, .byte .incZp⟩,
  ⟨"INC", .zeroPageX, 0xF6, 6, false, .byte .incZpX⟩,
  ⟨"INC", .absoluteX, 0xFE, 7, false, .word .incAbsX⟩,
  ⟨"INX", .none, 0xE8, 2, false, .bare .inx⟩,
  ⟨"INY", .none, 0xC8, 2, false, .bare .iny⟩]

/-- The rows of LDA, LDX, LDY, STA, STX, STY (R90). -/
def loadStoreRows : List Row := [
  ⟨"LDA", .immediate, 0xA9, 2, false, .byte .ldaImm⟩,
  ⟨"LDA", .absolute, 0xAD, 4, false, .word .ldaAbs⟩,
  ⟨"LDA", .zeroPage, 0xA5, 3, false, .byte .ldaZp⟩,
  ⟨"LDA", .indX, 0xA1, 6, false, .byte .ldaIndX⟩,
  ⟨"LDA", .indY, 0xB1, 5, true, .byte .ldaIndY⟩,
  ⟨"LDA", .zeroPageX, 0xB5, 4, false, .byte .ldaZpX⟩,
  ⟨"LDA", .absoluteX, 0xBD, 4, true, .word .ldaAbsX⟩,
  ⟨"LDA", .absoluteY, 0xB9, 4, true, .word .ldaAbsY⟩,
  ⟨"LDX", .immediate, 0xA2, 2, false, .byte .ldxImm⟩,
  ⟨"LDX", .absolute, 0xAE, 4, false, .word .ldxAbs⟩,
  ⟨"LDX", .zeroPage, 0xA6, 3, false, .byte .ldxZp⟩,
  ⟨"LDX", .absoluteY, 0xBE, 4, true, .word .ldxAbsY⟩,
  ⟨"LDX", .zeroPageY, 0xB6, 4, false, .byte .ldxZpY⟩,
  ⟨"LDY", .immediate, 0xA0, 2, false, .byte .ldyImm⟩,
  ⟨"LDY", .absolute, 0xAC, 4, false, .word .ldyAbs⟩,
  ⟨"LDY", .zeroPage, 0xA4, 3, false, .byte .ldyZp⟩,
  ⟨"LDY", .zeroPageX, 0xB4, 4, false, .byte .ldyZpX⟩,
  ⟨"LDY", .absoluteX, 0xBC, 4, true, .word .ldyAbsX⟩,
  ⟨"STA", .absolute, 0x8D, 4, false, .word .staAbs⟩,
  ⟨"STA", .zeroPage, 0x85, 3, false, .byte .staZp⟩,
  ⟨"STA", .indX, 0x81, 6, false, .byte .staIndX⟩,
  ⟨"STA", .indY, 0x91, 6, false, .byte .staIndY⟩,
  ⟨"STA", .zeroPageX, 0x95, 4, false, .byte .staZpX⟩,
  ⟨"STA", .absoluteX, 0x9D, 5, false, .word .staAbsX⟩,
  ⟨"STA", .absoluteY, 0x99, 5, false, .word .staAbsY⟩,
  ⟨"STX", .absolute, 0x8E, 4, false, .word .stxAbs⟩,
  ⟨"STX", .zeroPage, 0x86, 3, false, .byte .stxZp⟩,
  ⟨"STX", .zeroPageY, 0x96, 4, false, .byte .stxZpY⟩,
  ⟨"STY", .absolute, 0x8C, 4, false, .word .styAbs⟩,
  ⟨"STY", .zeroPage, 0x84, 3, false, .byte .styZp⟩,
  ⟨"STY", .zeroPageX, 0x94, 4, false, .byte .styZpX⟩]

/-- The rows of PHA, PHP, PLA, PLP, TAX, TAY, TSX, TXA, TXS, TYA (R90). -/
def stackTransferRows : List Row := [
  ⟨"PHA", .none, 0x48, 3, false, .bare .pha⟩,
  ⟨"PHP", .none, 0x08, 3, false, .bare .php⟩,
  ⟨"PLA", .none, 0x68, 4, false, .bare .pla⟩,
  ⟨"PLP", .none, 0x28, 4, false, .bare .plp⟩,
  ⟨"TAX", .none, 0xAA, 2, false, .bare .tax⟩,
  ⟨"TAY", .none, 0xA8, 2, false, .bare .tay⟩,
  ⟨"TSX", .none, 0xBA, 2, false, .bare .tsx⟩,
  ⟨"TXA", .none, 0x8A, 2, false, .bare .txa⟩,
  ⟨"TXS", .none, 0x9A, 2, false, .bare .txs⟩,
  ⟨"TYA", .none, 0x98, 2, false, .bare .tya⟩]

/-- The 151 rows (R90). -/
def opcodeTable : List Row :=
  arithmeticRows ++ logicRows ++ shiftRows ++ branchRows ++ systemRows ++ flagRows ++ incDecRows ++ loadStoreRows ++ stackTransferRows

/-! ## The decoder -/

/-- Why bytes do not decode. -/
inductive DecodeError where
  | unlistedOpcode (op : Byte)  -- one of the 105 values of R93, or one of the five of R94 without `HAS_ROR`
  | truncated (op : Byte)       -- the opcode is listed and its operand bytes are not all there
  | empty                       -- there is no opcode byte
deriving DecidableEq, Repr

/-- The opcodes that leave the list when `HAS_ROR` = false (R94). -/
def rorOpcodes : List Byte := [0x66, 0x6A, 0x6E, 0x76, 0x7E]

/-- The row of an opcode byte: all 8 bits are matched (R72). With `HAS_ROR` = false the ROR opcodes have none (R94). -/
def rowOf (hasRor : Bool) (op : Byte) : Option Row :=
  if !hasRor && rorOpcodes.contains op then none else opcodeTable.find? fun r => r.opcode == op

/-- The length of an instruction, from its opcode byte alone (R70, R95). -/
def lengthOf (hasRor : Bool) (op : Byte) : Option Nat := (rowOf hasRor op).map fun r => r.template.length

/-- Reads one instruction from bytes at rising addresses (R71) and returns the bytes after it. -/
def decode (hasRor : Bool) : List Byte → Except DecodeError (Instr × List Byte)
  | [] => .error .empty
  | op :: rest =>
    match rowOf hasRor op with
    | none => .error (.unlistedOpcode op)
    | some r =>
      match r.template, rest with
      | .bare i, rest => .ok (i, rest)
      | .byte f, n :: rest => .ok (f n, rest)
      | .word f, l :: h :: rest => .ok (f (wordOf l h), rest)
      | .byte _, _ => .error (.truncated op)
      | .word _, _ => .error (.truncated op)

/-- The instruction whose bits are `w`, numbered as spec/opcode_table.json numbers them: the opcode is bits 7 to 0, the
second byte bits 15 to 8, the third bits 23 to 16; bits from `nbits` on are 0. -/
def decodeTableWord (nbits w : Nat) : Option Instr :=
  match decode true ((List.range 3).map fun k => BitVec.ofNat 8 ((w % 2 ^ nbits) >>> (8 * k))) with
  | .ok (i, _) => some i
  | .error _ => none

/-! ## The encoder -/

/-- The two operand bytes of format F3, low byte first (R71). -/
def wordBytes (nn : Addr) : List Byte := [lowByte nn, highByte nn]

/-- The bytes of an instruction (R71, R90). -/
def encode : Instr → List Byte
  | .adcImm n => [0x69, n]
  | .adcAbs nn => 0x6D :: wordBytes nn
  | .adcZp n => [0x65, n]
  | .adcIndX n => [0x61, n]
  | .adcIndY n => [0x71, n]
  | .adcZpX n => [0x75, n]
  | .adcAbsX nn => 0x7D :: wordBytes nn
  | .adcAbsY nn => 0x79 :: wordBytes nn
  | .andImm n => [0x29, n]
  | .andAbs nn => 0x2D :: wordBytes nn
  | .andZp n => [0x25, n]
  | .andIndX n => [0x21, n]
  | .andIndY n => [0x31, n]
  | .andZpX n => [0x35, n]
  | .andAbsX nn => 0x3D :: wordBytes nn
  | .andAbsY nn => 0x39 :: wordBytes nn
  | .aslAbs nn => 0x0E :: wordBytes nn
  | .aslZp n => [0x06, n]
  | .aslAcc => [0x0A]
  | .aslZpX n => [0x16, n]
  | .aslAbsX nn => 0x1E :: wordBytes nn
  | .bcc n => [0x90, n]
  | .bcs n => [0xB0, n]
  | .beq n => [0xF0, n]
  | .bne n => [0xD0, n]
  | .bmi n => [0x30, n]
  | .bpl n => [0x10, n]
  | .bvc n => [0x50, n]
  | .bvs n => [0x70, n]
  | .bitAbs nn => 0x2C :: wordBytes nn
  | .bitZp n => [0x24, n]
  | .brk => [0x00]
  | .clc => [0x18]
  | .cld => [0xD8]
  | .cli => [0x58]
  | .clv => [0xB8]
  | .cmpImm n => [0xC9, n]
  | .cmpAbs nn => 0xCD :: wordBytes nn
  | .cmpZp n => [0xC5, n]
  | .cmpIndX n => [0xC1, n]
  | .cmpIndY n => [0xD1, n]
  | .cmpZpX n => [0xD5, n]
  | .cmpAbsX nn => 0xDD :: wordBytes nn
  | .cmpAbsY nn => 0xD9 :: wordBytes nn
  | .cpxImm n => [0xE0, n]
  | .cpxAbs nn => 0xEC :: wordBytes nn
  | .cpxZp n => [0xE4, n]
  | .cpyImm n => [0xC0, n]
  | .cpyAbs nn => 0xCC :: wordBytes nn
  | .cpyZp n => [0xC4, n]
  | .decAbs nn => 0xCE :: wordBytes nn
  | .decZp n => [0xC6, n]
  | .decZpX n => [0xD6, n]
  | .decAbsX nn => 0xDE :: wordBytes nn
  | .dex => [0xCA]
  | .dey => [0x88]
  | .eorImm n => [0x49, n]
  | .eorAbs nn => 0x4D :: wordBytes nn
  | .eorZp n => [0x45, n]
  | .eorIndX n => [0x41, n]
  | .eorIndY n => [0x51, n]
  | .eorZpX n => [0x55, n]
  | .eorAbsX nn => 0x5D :: wordBytes nn
  | .eorAbsY nn => 0x59 :: wordBytes nn
  | .incAbs nn => 0xEE :: wordBytes nn
  | .incZp n => [0xE6, n]
  | .incZpX n => [0xF6, n]
  | .incAbsX nn => 0xFE :: wordBytes nn
  | .inx => [0xE8]
  | .iny => [0xC8]
  | .jmpAbs nn => 0x4C :: wordBytes nn
  | .jmpInd nn => 0x6C :: wordBytes nn
  | .jsrAbs nn => 0x20 :: wordBytes nn
  | .ldaImm n => [0xA9, n]
  | .ldaAbs nn => 0xAD :: wordBytes nn
  | .ldaZp n => [0xA5, n]
  | .ldaIndX n => [0xA1, n]
  | .ldaIndY n => [0xB1, n]
  | .ldaZpX n => [0xB5, n]
  | .ldaAbsX nn => 0xBD :: wordBytes nn
  | .ldaAbsY nn => 0xB9 :: wordBytes nn
  | .ldxImm n => [0xA2, n]
  | .ldxAbs nn => 0xAE :: wordBytes nn
  | .ldxZp n => [0xA6, n]
  | .ldxAbsY nn => 0xBE :: wordBytes nn
  | .ldxZpY n => [0xB6, n]
  | .ldyImm n => [0xA0, n]
  | .ldyAbs nn => 0xAC :: wordBytes nn
  | .ldyZp n => [0xA4, n]
  | .ldyZpX n => [0xB4, n]
  | .ldyAbsX nn => 0xBC :: wordBytes nn
  | .lsrAbs nn => 0x4E :: wordBytes nn
  | .lsrZp n => [0x46, n]
  | .lsrAcc => [0x4A]
  | .lsrZpX n => [0x56, n]
  | .lsrAbsX nn => 0x5E :: wordBytes nn
  | .nop => [0xEA]
  | .oraImm n => [0x09, n]
  | .oraAbs nn => 0x0D :: wordBytes nn
  | .oraZp n => [0x05, n]
  | .oraIndX n => [0x01, n]
  | .oraIndY n => [0x11, n]
  | .oraZpX n => [0x15, n]
  | .oraAbsX nn => 0x1D :: wordBytes nn
  | .oraAbsY nn => 0x19 :: wordBytes nn
  | .pha => [0x48]
  | .php => [0x08]
  | .pla => [0x68]
  | .plp => [0x28]
  | .rolAbs nn => 0x2E :: wordBytes nn
  | .rolZp n => [0x26, n]
  | .rolAcc => [0x2A]
  | .rolZpX n => [0x36, n]
  | .rolAbsX nn => 0x3E :: wordBytes nn
  | .rorAbs nn => 0x6E :: wordBytes nn
  | .rorZp n => [0x66, n]
  | .rorAcc => [0x6A]
  | .rorZpX n => [0x76, n]
  | .rorAbsX nn => 0x7E :: wordBytes nn
  | .rti => [0x40]
  | .rts => [0x60]
  | .sbcImm n => [0xE9, n]
  | .sbcAbs nn => 0xED :: wordBytes nn
  | .sbcZp n => [0xE5, n]
  | .sbcIndX n => [0xE1, n]
  | .sbcIndY n => [0xF1, n]
  | .sbcZpX n => [0xF5, n]
  | .sbcAbsX nn => 0xFD :: wordBytes nn
  | .sbcAbsY nn => 0xF9 :: wordBytes nn
  | .sec => [0x38]
  | .sed => [0xF8]
  | .sei => [0x78]
  | .staAbs nn => 0x8D :: wordBytes nn
  | .staZp n => [0x85, n]
  | .staIndX n => [0x81, n]
  | .staIndY n => [0x91, n]
  | .staZpX n => [0x95, n]
  | .staAbsX nn => 0x9D :: wordBytes nn
  | .staAbsY nn => 0x99 :: wordBytes nn
  | .stxAbs nn => 0x8E :: wordBytes nn
  | .stxZp n => [0x86, n]
  | .stxZpY n => [0x96, n]
  | .styAbs nn => 0x8C :: wordBytes nn
  | .styZp n => [0x84, n]
  | .styZpX n => [0x94, n]
  | .tax => [0xAA]
  | .tay => [0xA8]
  | .tsx => [0xBA]
  | .txa => [0x8A]
  | .txs => [0x9A]
  | .tya => [0x98]

/-- The length of an instruction in bytes (R70, column B of R90). -/
def Instr.length (i : Instr) : Nat := (encode i).length

end Sys2Proof
end

