-- ==== Sys2Proof/Config.lean ====
section
/-! DEFINITION. What one 6502 system may choose (spec/00_scope.md R4): the parameters, with the alternatives the spec
defines for them and the values it fixes, the memory map `MEM`, and the free values (every `draw(k)` of R6, the answers of
devices and the content of memory nothing has written), which have no body: nothing can be proved of their value. -/

namespace Sys2Proof

/-- `PTR_PAGE_CROSS` (R85): what becomes of a 2-byte pointer whose low byte lies at an address ending in $FF. -/
inductive PtrPageCross where
  | refuse  -- the step has no meaning (the spec's value, D4)
  | wrap    -- the high byte comes from the first byte of the same page
  | next    -- the high byte comes from the next address
deriving DecidableEq, Repr

/-- `I_LATENCY` (R229): which I governs the boundary right after CLI, SEI or PLP. -/
inductive ILatency where
  | none            -- the new I (the spec's value, D14)
  | oneInstruction  -- the I from before the instruction
deriving DecidableEq, Repr

/-- `P_PUSH_BITS` (R27): the values of bits 5 and 4 in a byte pushed from P. -/
inductive PushBits where
  | fixed  -- the table of R27 (the spec's value, D6)
  | draw   -- R27's safe variant: bit 5, and bit 4 of PHP, IRQ and NMI, are draws
deriving DecidableEq, Repr

/-- `UNDOC_OPCODE` (R93): what becomes of an unlisted opcode. R4 fixes one treatment and no rule defines another, so the type has one
value; so have the three parameters below. -/
inductive UndocOpcode where
  | refuse  -- the step has no meaning (the spec's value, D5)
deriving DecidableEq, Repr

/-- `DECIMAL_FLAGS` (R112): the values of N, V and Z after ADC or SBC with D = 1. -/
inductive DecimalFlags where
  | draw  -- a draw each (the spec's value, D17)
deriving DecidableEq, Repr

/-- `RESET_STATE` (R34, R260): the values of A, X, Y, S, N, V, D, Z and C after a reset. What becomes of RAM is R260's and R261's
(`Reset`, Machine/State.lean). -/
inductive ResetState where
  | draw  -- a draw per item (the spec's value, D15)
deriving DecidableEq, Repr

/-- `SO_EVENTS` (R22): the behaviour of the pin S.O. -/
inductive SoEvents where
  | none  -- the pin is never asserted (the spec's value, D21)
deriving DecidableEq, Repr

/-- What answers at an address (R46). -/
inductive CellKind where
  | ram
  | rom (dropsWrites : Bool)  -- `dropsWrites`: `MEM` defines a write as having no effect; else a write is refused
  | device                    -- reads are oracle answers, writes go to the device
  | nothing                   -- every access is refused
deriving DecidableEq, Repr

/-- What a range of addresses is: cells of one kind, or a mirror of the range that begins at `target` (R4 `MEM`, R49). -/
inductive RegionKind where
  | plain (kind : CellKind)
  | mirror (target : Addr)
deriving DecidableEq, Repr

/-- A range of addresses, `first` to `last` inclusive. -/
structure Region where
  first : Addr
  last : Addr
  kind : RegionKind
deriving DecidableEq, Repr

/-- The parameters of one system (R4): no step writes them (R32). The widths `XLEN` and `PCLEN` are the types `Byte` and `Addr`, and
`IRQ_LINE`, `NMI_EDGES` and `RES_EVENTS` are the environment's inputs (`Inputs`, Machine/State.lean). -/
structure System where
  /-- `HAS_ROR` (R94): whether the chip has the ROR instruction. -/
  hasRor : Bool
  ptrPageCross : PtrPageCross
  iLatency : ILatency
  pushBits : PushBits
  undocOpcode : UndocOpcode
  decimalFlags : DecimalFlags
  resetState : ResetState
  soEvents : SoEvents
  /-- `STACK_PAGE` (R49): the high byte of every stack address. -/
  stackPage : Byte
  /-- `MEM` (R46): the first range that holds an address says what answers there; an address in none is RAM. -/
  map : List Region
deriving DecidableEq, Repr

/-- The values R4 fixes; `MEM`, which R4 leaves OPEN, is RAM everywhere (DESIGN CHOICE, unsafe, log 6). -/
def System.specified : System where
  hasRor := true
  ptrPageCross := .refuse
  iLatency := .none
  pushBits := .fixed
  undocOpcode := .refuse
  decimalFlags := .draw
  resetState := .draw
  soEvents := .none
  stackPage := 0x01
  map := []

/-- One byte access, at the address the processor emits (R44, R45). -/
inductive Access where
  | read (addr : Addr) (value : Byte)
  | write (addr : Addr) (value : Byte)
deriving DecidableEq, Repr

/-- The entry address that the RES vector of the reset state holds (DESIGN CHOICE, unsafe, log 3): $0200, the first
address the memory map of R48 leaves to the platform. -/
def resetEntry : Addr := 0x0200

/-- The k-th draw of a byte, `draw(8)` (R6). -/
opaque Config.drawByte : Nat → Byte

/-- The k-th draw of a bit, `draw(1)` (R6). -/
opaque Config.drawBit : Nat → Bool

/-- What a device answers to a read of an address (R46, log 7): a free value of the whole record of accesses before it, so of
everything the device has been asked and told; no two occurrences in a run have the same record. -/
opaque Config.deviceAnswer : List Access → Addr → Byte

/-- What a cell that nothing has written holds: the RAM's content at power-up, or the ROM's content (R34, R46). -/
opaque Config.initialByte : Addr → Byte

end Sys2Proof
end

