-- ==== Sys2Proof/Machine/State.lean ====
section
/-! DEFINITION. The state of the machine as plain data, the outcomes of a step that are not a next state, and the state right
after reset (spec/10_state.md). Every register of R10, the six flags of R20, the NMI latch of R31 and the memory of R30 are here;
beside them the system's parameters (spec/00_scope.md R4), the coming interrupt inputs (spec/60_exceptions.md R222) and three
fields of the model's own: the held interrupt mask, the draw counter and the access record (INVENTORY.md, State). -/

namespace Sys2Proof.Machine

/-- The six stored flags of P (R20, R27): bits 5 and 4 of P are no store and exist only in a pushed byte. -/
structure Flags where
  /-- bit 7, negative result (R21) -/
  n : Bool
  /-- bit 6, overflow (R22) -/
  v : Bool
  /-- bit 3, decimal mode (R23) -/
  d : Bool
  /-- bit 2, IRQ disable (R24) -/
  i : Bool
  /-- bit 1, zero result (R25) -/
  z : Bool
  /-- bit 0, carry, or the complement of the borrow (R26) -/
  c : Bool
deriving DecidableEq, Repr

/-- What RES does at one boundary (R222, R261): the bit `res_k`, and, where it is 1, whether the reset comes between instructions or
has cut one short, which a platform may allow (D27, U14; log 36). -/
inductive Reset where
  | none
  /-- the reset comes at the boundary, as R223 has it -/
  | boundary
  /-- what began at this boundary, an instruction or an entry, was abandoned half-way -/
  | inside
deriving DecidableEq, Repr

/-- What the environment supplies at one boundary (R222). -/
structure Inputs where
  /-- `res_k`: whether the RES input calls for a reset, and when it came -/
  res : Reset
  /-- `nmi_k`: NMI has made a high-to-low transition since the boundary before -/
  nmi : Bool
  /-- `irq_k`: the IRQ input is low -/
  irq : Bool
deriving DecidableEq, Repr

/-- A boundary at which the environment asserts nothing. -/
def Inputs.quiet : Inputs := ⟨.none, false, false⟩

/-- The memory's written cells, in one canonical form (`Memory.wf`, Machine/Memory.lean). -/
abbrev Memory := List Host.Cell

/-- The state of the machine. -/
structure State where
  /-- the accumulator A (R11) -/
  a : Byte
  /-- the index register X (R12) -/
  x : Byte
  /-- the index register Y (R13) -/
  y : Byte
  /-- the stack pointer S (R14) -/
  sp : Byte
  /-- the program counter PC (R15) -/
  pc : Addr
  /-- the flags P (R20) -/
  p : Flags
  /-- `nmi_pending` (R31) -/
  nmiPending : Bool
  /-- the I that governs the next boundary in place of the flag, under `I_LATENCY` = one_instruction (R229) -/
  heldMask : Option Bool
  /-- the memory (R30) -/
  mem : Memory
  /-- the parameters of the system (R4, R32) -/
  sys : System
  /-- the inputs of the coming boundaries, the next one first; after the last, none is asserted (R222, log 5) -/
  inputs : List Inputs
  /-- the number of draws made so far (R6) -/
  draws : Nat
  /-- the byte accesses made so far, the latest first (R45, R61) -/
  bus : List Access
deriving DecidableEq, Repr

/-- The machine has no fault: R221 names no exception for any misuse, and BRK, the one synchronous exception, is taken with a
next state. The type has no constructor. -/
inductive Fault where
deriving DecidableEq, Repr

/-- Why a step has no meaning (`refuse` of R6). -/
inductive Refusal where
  /-- Raised by exec for an instruction not modelled yet; no arm raises it now. Safe: the model stops. -/
  | notModelled (mnemonic : String)
  /-- Raised by the fetch: the opcode byte is one of the 105 of R93, or one of the five of R94 on a chip without ROR.
  Safe: the model stops where the hardware goes on. -/
  | unlistedOpcode (op : Byte)
  /-- Raised by the forms (n,X), (n),Y and (nn) under `PTR_PAGE_CROSS` = refuse: the pointer's low byte is at an address that
  ends in $FF (R85). Safe. -/
  | pointerCrossesPage (pointer : Addr)
  /-- Raised by a read or a write of an address where `MEM` has nothing (R46). Safe. -/
  | nothingAt (addr : Addr)
  /-- Raised by a write to ROM whose effect `MEM` does not define (R46). Safe. -/
  | romWrite (addr : Addr)
deriving DecidableEq, Repr

/-- The machine right after reset (R33, R34): I = 1, PC the content of the RES vector (`resetEntry`, log 3), no NMI pending.
The registers and flags to which R34 gives no value hold 0 (DESIGN CHOICE, unsafe, log 1); a reset taken by a step draws them
instead (`takeReset`, R260). -/
def State.reset : State where
  a := 0
  x := 0
  y := 0
  sp := 0
  pc := resetEntry
  p := { n := false, v := false, d := false, i := true, z := false, c := false }
  nmiPending := false
  heldMask := none
  mem := []
  sys := System.specified
  inputs := []
  draws := 0
  bus := []

end Sys2Proof.Machine
end

