-- ==== Sys2Proof/Machine/Memory.lean ====
section
/-! DEFINITION. The memory (spec/20_memory.md R40, R46): the written cells as a canonical list, what an unlisted cell holds, and
the map `MEM` that says what answers at an address. -/

namespace Sys2Proof.Machine

/-! ## Cells -/

/-- The byte that an unlisted cell is known to hold. Only the two cells of the RES vector have one: the vector "must be
readable and hold the wanted entry point before reset is released" (R48), and at State.reset that is `resetEntry`
(DESIGN CHOICE, unsafe, log 3). Every other unlisted cell has none: the spec gives its content as a draw (R34, R46). -/
def Memory.unlisted (k : Nat) : Option Byte :=
  if k = 0xFFFC then some (lowByte resetEntry) else if k = 0xFFFD then some (highByte resetEntry) else none

/-- The listed byte of a cell. -/
def Memory.listed : Memory → Nat → Option Byte
  | [], _ => none
  | (k', v) :: m, k => if k = k' then some v else Memory.listed m k

/-- The byte a cell holds: the byte last written there, or its content at power-up, a free value of its own address (R46). -/
def Memory.byteAt (m : Memory) (a : Addr) : Byte :=
  match m.listed a.toNat with
  | some v => v
  | none => (Memory.unlisted a.toNat).getD (Config.initialByte a)

/-- Lists a byte, keeping the addresses rising. -/
def Memory.insert : Memory → Nat → Byte → Memory
  | [], k, v => [(k, v)]
  | (k', v') :: m, k, v =>
    if k < k' then (k, v) :: (k', v') :: m
    else if k = k' then (k, v) :: m
    else (k', v') :: Memory.insert m k v

/-- Takes a cell off the list. -/
def Memory.erase : Memory → Nat → Memory
  | [], _ => []
  | (k', v') :: m, k => if k = k' then Memory.erase m k else (k', v') :: Memory.erase m k

/-- Writes a byte to a cell, keeping the canonical form: a byte an unlisted cell is known to hold is not listed. -/
def Memory.store (m : Memory) (a : Addr) (v : Byte) : Memory :=
  if Memory.unlisted a.toNat = some v then m.erase a.toNat else m.insert a.toNat v

/-- The canonical form, from the address `lo` on. -/
def Memory.wfFrom (lo : Nat) : Memory → Bool
  | [] => true
  | (k, v) :: m =>
    decide (lo ≤ k) && decide (k < 0x10000) && !decide (Memory.unlisted k = some v) && Memory.wfFrom (k + 1) m

/-- The canonical form: addresses below 65536 and strictly rising, and no entry that an unlisted cell is known to hold. -/
def Memory.wf (m : Memory) : Bool := m.wfFrom 0

/-! ## The map `MEM` -/

/-- What answers at an address, and which cell it is (R46): the first range that holds the address decides, a mirror goes on
among the ranges after it with the mirrored address, and an address in no range is a RAM cell of its own (log 6, log 9). -/
def locate : List Region → Addr → CellKind × Addr
  | [], a => (.ram, a)
  | r :: rest, a =>
    if r.first ≤ a ∧ a ≤ r.last then
      match r.kind with
      | .plain kind => (kind, a)
      | .mirror target => locate rest (target + (a - r.first))
    else locate rest a

/-- What answers at an address (R46). -/
def State.kindAt (s : State) (a : Addr) : CellKind := (locate s.sys.map a).1

/-- The cell an address selects: the address itself but where `MEM` mirrors it (R49). -/
def State.cellOf (s : State) (a : Addr) : Addr := (locate s.sys.map a).2

/-- The byte that the cell of an address holds: what a read of RAM or ROM returns (R46). -/
def State.byteAt (s : State) (a : Addr) : Byte := s.mem.byteAt (s.cellOf a)

/-- Something answers a read of the address (R46). -/
def State.readable (s : State) (a : Addr) : Bool := s.kindAt a != .nothing

/-- The address is RAM or ROM: a read has no side effect and returns `byteAt` (R46). -/
def State.plain (s : State) (a : Addr) : Bool :=
  match s.kindAt a with
  | .ram | .rom _ => true
  | .device | .nothing => false

/-- `MEM` defines what a write of the address does (R46). -/
def State.writable (s : State) (a : Addr) : Bool :=
  match s.kindAt a with
  | .ram | .device | .rom true => true
  | .rom false | .nothing => false

end Sys2Proof.Machine
end

