-- ==== Sys2Proof/Machine/Ops.lean ====
section
/-! DEFINITION. The operations every meaning is built from: byte accesses (spec/20_memory.md R44 to R46), 2-byte reads (R42),
the stack (R49 to R52), the status byte (spec/10_state.md R20, R27), the advance of PC (R17), taking an interrupt
(spec/60_exceptions.md R230), returning from one (spec/44_system.md R161) and reset (spec/70_reset_and_hazards.md R260). -/

namespace Sys2Proof.Machine

/-- What an instruction or an entry sequence answers. -/
abbrev Exec := Host.Outcome State Fault Refusal

/-- What an operation that yields a value answers: the value and the state after it. -/
abbrev Result (α : Type) := Host.Outcome (α × State) Fault Refusal

/-- Goes on with the answer of an operation, or stops where it stopped. -/
def andThen {α β : Type} (o : Host.Outcome α Fault Refusal) (f : α → Host.Outcome β Fault Refusal) :
    Host.Outcome β Fault Refusal :=
  match o with
  | .next x => f x
  | .fault r => .fault r
  | .refused r => .refused r

/-! ## Updates -/

def State.setA (s : State) (v : Byte) : State := { s with a := v }
def State.setX (s : State) (v : Byte) : State := { s with x := v }
def State.setY (s : State) (v : Byte) : State := { s with y := v }
def State.setSp (s : State) (v : Byte) : State := { s with sp := v }
def State.setPc (s : State) (v : Addr) : State := { s with pc := v }
def State.setP (s : State) (f : Flags) : State := { s with p := f }
def State.setMem (s : State) (m : Memory) : State := { s with mem := m }
def State.setDraws (s : State) (n : Nat) : State := { s with draws := n }
def State.setHeldMask (s : State) (b : Option Bool) : State := { s with heldMask := b }
def State.setNmiPending (s : State) (b : Bool) : State := { s with nmiPending := b }
def State.setInputs (s : State) (l : List Inputs) : State := { s with inputs := l }

/-- Puts an access on the record, the latest first (R45). -/
def State.record (s : State) (e : Access) : State := { s with bus := e :: s.bus }

/-- `PC <- pc_next` for an instruction of `len` bytes (R17), modulo 65536 (R18). -/
def State.advance (s : State) (len : Nat) : State := s.setPc (s.pc + BitVec.ofNat 16 len)

/-- `SetNZ(v)` (R6): N is bit 7, Z says that the byte is zero. -/
def Flags.setNZ (f : Flags) (v : Byte) : Flags := { f with n := v.getLsbD 7, z := v == 0 }

/-- A byte goes to A, and N and Z follow it. -/
def State.loadA (s : State) (v : Byte) : State := (s.setA v).setP (s.p.setNZ v)

/-- A byte goes to X, and N and Z follow it. -/
def State.loadX (s : State) (v : Byte) : State := (s.setX v).setP (s.p.setNZ v)

/-- A byte goes to Y, and N and Z follow it. -/
def State.loadY (s : State) (v : Byte) : State := (s.setY v).setP (s.p.setNZ v)

/-! ## Byte accesses -/

/-- What a read of an address returns: the byte of the cell, or a device's answer (R46). -/
def State.readValue (s : State) (a : Addr) : Byte :=
  if s.kindAt a = .device then Config.deviceAnswer s.bus (s.cellOf a) else s.byteAt a

/-- The state after a read: the access is on record, and nothing else has changed (R46). -/
def State.afterRead (s : State) (a : Addr) : State := s.record (.read a (s.readValue a))

/-- `MemRead(a, 1)` (R6, R46). -/
def readByte (a : Addr) (s : State) : Result Byte :=
  if s.readable a then .next (s.readValue a, s.afterRead a) else .refused (.nothingAt a)

/-- The state after a write that `MEM` defines: RAM holds the byte; ROM and devices leave memory as it was (R46, log 7). -/
def State.afterWrite (s : State) (a : Addr) (v : Byte) : State :=
  (if s.kindAt a = .ram then s.setMem (s.mem.store (s.cellOf a) v) else s).record (.write a v)

/-- `MemWrite(a, 1, v)` (R6, R46). -/
def writeByte (a : Addr) (v : Byte) (s : State) : Exec :=
  if s.writable a then .next (s.afterWrite a v)
  else if s.kindAt a = .nothing then .refused (.nothingAt a) else .refused (.romWrite a)

/-- Two byte reads in order, put together as a word with the first byte low (R42, R45). -/
def readPair (p q : Addr) (s : State) : Result Addr :=
  andThen (readByte p s) fun low =>
    andThen (readByte q low.2) fun high => .next (wordOf low.1 high.1, high.2)

/-- `Read16(a)` (R6): the second address is modulo 65536 (R62). -/
def read16 (a : Addr) (s : State) : Result Addr := readPair a (a + 1) s

/-! ## The stack -/

/-- `word(S, STACK_PAGE)` (R49): `$0100 + S` for the spec's page. -/
def stackAddr (page sp : Byte) : Addr := wordOf sp page

/-- `Push(v)` (R50): the byte goes to the free byte S points to, then S is decremented modulo 256. -/
def push (v : Byte) (s : State) : Exec :=
  andThen (writeByte (stackAddr s.sys.stackPage s.sp) v s) fun t => .next (t.setSp (t.sp - 1))

/-- `Pull()` (R51): S is incremented modulo 256, then the byte it points to is read. -/
def pull (s : State) : Result Byte := readByte (stackAddr s.sys.stackPage (s.sp + 1)) (s.setSp (s.sp + 1))

/-- `PushWord(w)` (R52): "high byte is pushed first". -/
def pushWord (w : Addr) (s : State) : Exec := andThen (push (highByte w) s) fun t => push (lowByte w) t

/-- `PullWord()` (R52): the low byte first. -/
def pullWord (s : State) : Result Addr :=
  andThen (pull s) fun low => andThen (pull low.2) fun high => .next (wordOf low.1 high.1, high.2)

/-! ## The status byte -/

/-- P as a byte, "N V - B D I Z C" with the given bits 5 and 4 (R20, R27). -/
def Flags.toByte (f : Flags) (bit5 bit4 : Bool) : Byte :=
  BitVec.ofBool f.n ++ BitVec.ofBool f.v ++ BitVec.ofBool bit5 ++ BitVec.ofBool bit4 ++
    BitVec.ofBool f.d ++ BitVec.ofBool f.i ++ BitVec.ofBool f.z ++ BitVec.ofBool f.c

/-- The six flags of a pulled byte; bits 5 and 4 are discarded (R27). -/
def flagsOf (b : Byte) : Flags where
  n := b.getLsbD 7
  v := b.getLsbD 6
  d := b.getLsbD 3
  i := b.getLsbD 2
  z := b.getLsbD 1
  c := b.getLsbD 0

/-- Who pushes P (the rows of R27's table). -/
inductive Pusher where
  | brk
  | php
  | interrupt  -- IRQ or NMI entry
deriving DecidableEq, Repr

/-- Bit 4 (B) of a pushed P by R27's table: 1 for BRK and PHP, 0 for IRQ and NMI. -/
def Pusher.breakBit : Pusher → Bool
  | .brk | .php => true
  | .interrupt => false

/-- The byte pushed from P (R27). Under `P_PUSH_BITS` = draw bit 5 is a draw, and bit 4 is one but for BRK. -/
def statusByte (who : Pusher) (s : State) : Byte :=
  match s.sys.pushBits with
  | .fixed => s.p.toByte true who.breakBit
  | .draw => s.p.toByte (Config.drawBit s.draws) (who == .brk || Config.drawBit (s.draws + 1))

/-- The state once `statusByte` has made its draws. -/
def afterStatusByte (s : State) : State :=
  match s.sys.pushBits with
  | .fixed => s
  | .draw => s.setDraws (s.draws + 2)

/-- `Push(P(b))` (R6, R27). -/
def pushStatus (who : Pusher) (s : State) : Exec := push (statusByte who s) (afterStatusByte s)

/-! ## Taking an interrupt, returning from one, reset -/

def nmiVector : Addr := 0xFFFA  -- "NMI VECTOR" (R48)
def resVector : Addr := 0xFFFC  -- "RES VECTOR" (R48)
def irqVector : Addr := 0xFFFE  -- "IRQ VECTOR", of IRQ and BRK (R48)

/-- "Jump via appropriate vector": the vector is read at the time of the entry (R48). -/
def jumpVia (vec : Addr) (s : State) : Exec := andThen (read16 vec s) fun r => .next (r.2.setPc r.1)

/-- The entry sequence (R230): PC high, PC low, P pushed, I set after P is pushed, PC from the vector. `w` is the address to be
resumed at and `who` gives the pushed B. D and the other flags keep their values (R236). -/
def enterInterrupt (vec w : Addr) (who : Pusher) (s : State) : Exec :=
  andThen (pushWord w s) fun t =>
    andThen (pushStatus who t) fun u => jumpVia vec (u.setP { u.p with i := true })

/-- "Pop P, Pop PC" (R161): the six flags and PC come from the three bytes on top of the stack, PC with no increment. -/
def returnFromInterrupt (s : State) : Exec :=
  andThen (pull s) fun st =>
    andThen (pullWord (st.2.setP (flagsOf st.1))) fun r => .next (r.2.setPc r.1)

/-- What reset leaves in the registers (R260): I is set, no NMI is pending, and every register but PC is drawn (`RESET_STATE`). -/
def State.redrawn (s : State) : State :=
  match s.sys.resetState with
  | .draw => { s with
    a := Config.drawByte s.draws
    x := Config.drawByte (s.draws + 1)
    y := Config.drawByte (s.draws + 2)
    sp := Config.drawByte (s.draws + 3)
    p := { n := Config.drawBit (s.draws + 4), v := Config.drawBit (s.draws + 5), d := Config.drawBit (s.draws + 6),
           i := true, z := Config.drawBit (s.draws + 7), c := Config.drawBit (s.draws + 8) }
    nmiPending := false
    heldMask := none
    draws := s.draws + 9 }

/-- `Reset()` (R260): nothing is pushed and memory is not written; PC comes from the RES vector. -/
def takeReset (s : State) : Exec := jumpVia resVector s.redrawn

/-- Draws, numbered from `first`, written to every RAM cell that an address below `n` selects; each address has a number of its
own. Irreducible, so that no proof unfolds its 65536 steps. -/
@[irreducible] def Memory.redraw (map : List Region) (first : Nat) : Nat → Memory → Memory
  | 0, m => m
  | n + 1, m =>
    let site := locate map (BitVec.ofNat 16 n)
    Memory.redraw map first n (if site.1 = .ram then m.store site.2 (Config.drawByte (first + n)) else m)

/-- RAM left unspecified, each byte a draw; ROM and whatever is no RAM keep their content (R261). -/
def State.redrawRam (s : State) : State :=
  { s with mem := s.mem.redraw s.sys.map s.draws 0x10000, draws := s.draws + 0x10000 }

/-- A reset that cut an instruction short: its "memory writes may be partly done", so RAM is unspecified before the vector is read
(R261, D27, U14; log 36). The accesses it had made are not on record. -/
def takeResetInside (s : State) : Exec := takeReset s.redrawRam

/-- CLI, SEI and PLP write I: under `I_LATENCY` = one_instruction the I from before governs the next boundary (R229). `before`
is that I. -/
def State.holdMask (s : State) (before : Bool) : State :=
  match s.sys.iLatency with
  | .none => s
  | .oneInstruction => s.setHeldMask (some before)

end Sys2Proof.Machine
end

