-- ==== Sys2Proof/Machine/Boundary.lean ====
section
/-! DEFINITION. The boundaries between instructions (spec/60_exceptions.md sections 2 to 4): which of the four things of R223 happens,
the fetch of an instruction (spec/10_state.md R16), and the entries of NMI and IRQ. -/

namespace Sys2Proof.Machine

/-- What happens at one boundary (R223). -/
inductive Event where
  | reset
  | resetInside  -- a reset, what began at the boundary having been abandoned half-way (R261)
  | nmi
  | irq
  | instruction
deriving DecidableEq, Repr

/-- The inputs of this boundary (R222); after the last listed boundary nothing is asserted (log 5). -/
def State.now (s : State) : Inputs := s.inputs.headD Inputs.quiet

/-- The NMI latch as this boundary sees it: an edge since the boundary before sets it (R225). -/
def State.nmiSeen (s : State) : Bool := s.nmiPending || s.now.nmi

/-- The I that masks IRQ at this boundary: the flag, or the one held from before CLI, SEI or PLP (R229). -/
def State.irqMask (s : State) : Bool := s.heldMask.getD s.p.i

/-- RES first, then NMI, then IRQ if I = 0, else the instruction at PC (R223, R227). -/
def event (s : State) : Event :=
  match s.now.res with
  | .boundary => .reset
  | .inside => .resetInside
  | .none =>
    if s.nmiSeen then .nmi
    else if s.now.irq && !s.irqMask then .irq
    else .instruction

/-- The flags as the pin S.O. leaves them: under `SO_EVENTS` = none it never acts, and V changes by instructions only (R22, D21). -/
def State.flagsAtPin (s : State) : Flags :=
  match s.sys.soEvents with
  | .none => s.p

/-- The state as the boundary leaves it to what happens there: its inputs are used up, an NMI edge is in the latch, and no mask is
held any longer (R223, R225, R229). -/
def atBoundary (s : State) : State :=
  { s with p := s.flagsAtPin, inputs := s.inputs.tail, nmiPending := s.nmiSeen, heldMask := none }

/-- NMI entry (R225, R230): the latch is cleared. -/
def takeNmi (s : State) : Exec :=
  enterInterrupt nmiVector s.pc .interrupt (s.setNmiPending false)

/-- IRQ entry (R224, R230). -/
def takeIrq (s : State) : Exec := enterInterrupt irqVector s.pc .interrupt s

/-- Reads `n` bytes at rising addresses (R16, R45). -/
def fetchBytes : Nat → Addr → State → Result (List Byte)
  | 0, _, s => .next ([], s)
  | n + 1, a, s =>
    andThen (readByte a s) fun b => andThen (fetchBytes n (a + 1) b.2) fun rest => .next (b.1 :: rest.1, rest.2)

/-- What becomes of an unlisted opcode (`UNDOC_OPCODE`, R93): the step is refused. -/
def unlisted {α : Type} (treatment : UndocOpcode) (op : Byte) : Host.Outcome α Fault Refusal :=
  match treatment with
  | .refuse => .refused (.unlistedOpcode op)

/-- Fetches the instruction at PC (R16): the opcode byte, then as many operand bytes as it asks for, through the memory as it is now
(R59). PC is left at the opcode. An unlisted opcode is `unlisted` (R93). -/
def fetch (s : State) : Result Instr :=
  andThen (readByte s.pc s) fun op =>
    match lengthOf s.sys.hasRor op.1 with
    | none => unlisted s.sys.undocOpcode op.1
    | some len =>
      andThen (fetchBytes (len - 1) (s.pc + 1) op.2) fun rest =>
        match decode s.sys.hasRor (op.1 :: rest.1) with
        | .ok (i, _) => .next (i, rest.2)
        | .error _ => unlisted s.sys.undocOpcode op.1

/-- Three RAM addresses at PC, laid over a map that lists ranges, so that loaded bytes are what the fetch reads. -/
def codeOverlay (pc : Addr) : List Region → List Region
  | [] => []
  | r :: rest =>
    ⟨pc, pc, .plain .ram⟩ :: ⟨pc + 1, pc + 1, .plain .ram⟩ :: ⟨pc + 2, pc + 2, .plain .ram⟩ :: r :: rest

/-- The next boundary made quiet, the later ones kept. -/
def quietNext : List Inputs → List Inputs
  | [] => []
  | _ :: rest => Inputs.quiet :: rest

/-- The state with the bytes of the instruction `w` (numbered as spec/opcode_table.json numbers them, 0 from bit `nbits` on) in RAM at
PC, PC + 1 and PC + 2, and no interrupt at the next boundary (log 4). -/
def loadAtPc (s : State) (nbits w : Nat) : State :=
  let byte (k : Nat) : Byte := BitVec.ofNat 8 ((w % 2 ^ nbits) >>> (8 * k))
  { s with
    mem := ((s.mem.store s.pc (byte 0)).store (s.pc + 1) (byte 1)).store (s.pc + 2) (byte 2)
    sys := { s.sys with map := codeOverlay s.pc s.sys.map }
    inputs := quietNext s.inputs
    nmiPending := false }

end Sys2Proof.Machine
end

