-- ==== Sys2Proof/Machine/Flags.lean ====
section
/-! DEFINITION. The results and flags of the arithmetic, compare and shift instructions, computed on exact integers and narrowed at
the end (spec/40_arithmetic.md, spec/42_shift_rotate.md). N and Z of a result are `Flags.setNZ` of Ops.lean (R6). -/

namespace Sys2Proof.Machine

/-- A sum or difference: the byte, the carry, and the signed overflow. -/
structure Arith where
  value : Byte
  carry : Bool
  overflow : Bool
deriving DecidableEq, Repr

/-- An integer outside -128 to 127: "signed arithmetic result is out of range" (R22, R111). -/
def outOfRange (st : Int) : Bool := decide (st < -128) || decide (127 < st)

/-- ADC with D = 0 (R111): `A + DATA + C`. -/
def adcBinary (a m : Byte) (c : Bool) : Arith where
  value := BitVec.ofNat 8 (a.toNat + m.toNat + c.toNat)
  carry := decide (255 < a.toNat + m.toNat + c.toNat)
  overflow := outOfRange (a.toInt + m.toInt + c.toNat)

/-- SBC with D = 0 (R113): `A - DATA - (1 - C)`; the carry is 1 when there is no borrow. -/
def sbcBinary (a m : Byte) (c : Bool) : Arith where
  value := BitVec.ofInt 8 ((a.toNat : Int) - m.toNat - (1 - c.toNat))
  carry := decide (0 ≤ (a.toNat : Int) - m.toNat - (1 - c.toNat))
  overflow := outOfRange (a.toInt - m.toInt - (1 - c.toNat))

/-- A valid packed BCD byte (R112): both digits are at most 9. -/
def validBcd (b : Byte) : Bool := decide (b.toNat / 16 ≤ 9) && decide (b.toNat % 16 ≤ 9)

/-- `dec(b)` (R112). -/
def decOf (b : Byte) : Nat := 10 * (b.toNat / 16) + b.toNat % 16

/-- `bcd(k)` (R112), for k from 0 to 99. -/
def bcdOf (k : Nat) : Byte := BitVec.ofNat 8 (16 * (k / 10) + k % 10)

/-- ADC of valid BCD operands with D = 1 (R112): the byte and the decimal carry. -/
def adcDecimal (a m : Byte) (c : Bool) : Byte × Bool :=
  let t := decOf a + decOf m + c.toNat
  (bcdOf (t % 100), decide (99 < t))

/-- SBC of valid BCD operands with D = 1 (R112): the byte and the complement of the decimal borrow. -/
def sbcDecimal (a m : Byte) (c : Bool) : Byte × Bool :=
  let t : Int := (decOf a : Int) - decOf m - (1 - c.toNat)
  (bcdOf (t % 100).toNat, decide (0 ≤ t))

/-- The flags of a compare of register r with `DATA` m (R114): N from the 8-bit difference, Z on equality, C on unsigned
greater or equal. V, D and I are kept. -/
def compareFlags (f : Flags) (r m : Byte) : Flags :=
  { f with n := (r - m).getLsbD 7, z := r == m, c := decide (m.toNat ≤ r.toNat) }

/-- ASL (R131): the byte and the bit shifted out. -/
def aslByte (v : Byte) : Byte × Bool := (BitVec.ofNat 8 (2 * v.toNat), v.getLsbD 7)

/-- LSR (R132). -/
def lsrByte (v : Byte) : Byte × Bool := (BitVec.ofNat 8 (v.toNat / 2), v.getLsbD 0)

/-- ROL (R133): the old C enters bit 0. -/
def rolByte (v : Byte) (c : Bool) : Byte × Bool := (BitVec.ofNat 8 (2 * v.toNat + c.toNat), v.getLsbD 7)

/-- ROR (R134): the old C enters bit 7. -/
def rorByte (v : Byte) (c : Bool) : Byte × Bool := (BitVec.ofNat 8 (128 * c.toNat + v.toNat / 2), v.getLsbD 0)

end Sys2Proof.Machine
end

