-- ==== Sys2Proof/Machine/Operands.lean ====
section
/-! DEFINITION. The operand forms (spec/30_encoding.md section 3): where the operand of each form lies, and `DATA` (R74). Each
access is given twice: as the operation the meanings run, and in closed form (`reachable`, `address`, `settled` and `ready`, `data`,
`fetched`) for statements; Laws/Operands.lean proves the two equal. -/

namespace Sys2Proof.Machine

/-- The forms that name a memory byte (R78 to R86). -/
inductive Place where
  | absolute (nn : Addr)
  | absoluteX (nn : Addr)
  | absoluteY (nn : Addr)
  | zeroPage (n : Byte)
  | zeroPageX (n : Byte)
  | zeroPageY (n : Byte)
  | indX (n : Byte)
  | indY (n : Byte)
deriving DecidableEq, Repr

/-- The forms that have an operand location (R74). -/
inductive Operand where
  | immediate (n : Byte)
  | accumulator
  | memory (p : Place)
deriving DecidableEq, Repr

/-- The length of an instruction with the form (R70). -/
def Place.length : Place → Nat
  | .absolute _ | .absoluteX _ | .absoluteY _ => 3
  | .zeroPage _ | .zeroPageX _ | .zeroPageY _ | .indX _ | .indY _ => 2

/-- The length of an instruction with the form (R70). -/
def Operand.length : Operand → Nat
  | .immediate _ => 2
  | .accumulator => 1
  | .memory p => p.length

/-! ## Pointers (R84 to R87) -/

/-- Where the high byte of the pointer at `p` is read (R85): the next address, and when `p` ends in $FF what `PTR_PAGE_CROSS`
says, none for `refuse`. -/
def pointerHigh (policy : PtrPageCross) (p : Addr) : Option Addr :=
  if lowByte p = 0xFF then
    match policy with
    | .refuse => none
    | .wrap => some (wordOf 0 (highByte p))
    | .next => some (p + 1)
  else some (p + 1)

/-- Reads the 2-byte pointer at `p`, low byte first, or refuses (R85). -/
def readPointer (p : Addr) (s : State) : Result Addr :=
  match pointerHigh s.sys.ptrPageCross p with
  | none => .refused (.pointerCrossesPage p)
  | some q => readPair p q s

/-- The pointer at `p` can be read: it crosses no page that is refused, and something answers at both bytes. -/
def State.pointerReadable (s : State) (p : Addr) : Bool :=
  match pointerHigh s.sys.ptrPageCross p with
  | none => false
  | some q => s.readable p && s.readable q

/-- The pointer at `p`, in closed form. -/
def State.pointerValue (s : State) (p : Addr) : Addr :=
  match pointerHigh s.sys.ptrPageCross p with
  | none => 0
  | some q => wordOf (s.readValue p) ((s.afterRead p).readValue q)

/-- The state after the pointer at `p` is read. -/
def State.afterPointer (s : State) (p : Addr) : State :=
  match pointerHigh s.sys.ptrPageCross p with
  | none => s
  | some q => (s.afterRead p).afterRead q

/-! ## The effective address (R78 to R86) -/

/-- The effective address, after the pointer reads of the two indirect forms. Index registers are unsigned; zero-page sums are
modulo 256 (R80, R81, R84), all others modulo 65536 (R62). -/
def Place.locate (p : Place) (s : State) : Result Addr :=
  match p with
  | .absolute nn => .next (nn, s)
  | .absoluteX nn => .next (nn + zext16 s.x, s)
  | .absoluteY nn => .next (nn + zext16 s.y, s)
  | .zeroPage n => .next (zext16 n, s)
  | .zeroPageX n => .next (zext16 (n + s.x), s)
  | .zeroPageY n => .next (zext16 (n + s.y), s)
  | .indX n => readPointer (zext16 (n + s.x)) s
  | .indY n => andThen (readPointer (zext16 n) s) fun r => .next (r.1 + zext16 s.y, r.2)

/-- The effective address can be formed: only the indirect forms can fail (R84, R86). -/
def Place.reachable (p : Place) (s : State) : Bool :=
  match p with
  | .indX n => s.pointerReadable (zext16 (n + s.x))
  | .indY n => s.pointerReadable (zext16 n)
  | .absolute _ | .absoluteX _ | .absoluteY _ | .zeroPage _ | .zeroPageX _ | .zeroPageY _ => true

/-- The effective address, in closed form (R78 to R86). -/
def Place.address (p : Place) (s : State) : Addr :=
  match p with
  | .absolute nn => nn
  | .absoluteX nn => nn + zext16 s.x
  | .absoluteY nn => nn + zext16 s.y
  | .zeroPage n => zext16 n
  | .zeroPageX n => zext16 (n + s.x)
  | .zeroPageY n => zext16 (n + s.y)
  | .indX n => s.pointerValue (zext16 (n + s.x))
  | .indY n => s.pointerValue (zext16 n) + zext16 s.y

/-- The state once the effective address is formed: the pointer reads are on record. -/
def Place.settled (p : Place) (s : State) : State :=
  match p with
  | .indX n => s.afterPointer (zext16 (n + s.x))
  | .indY n => s.afterPointer (zext16 n)
  | .absolute _ | .absoluteX _ | .absoluteY _ | .zeroPage _ | .zeroPageX _ | .zeroPageY _ => s

/-! ## `DATA` (R74) -/

/-- Reads `DATA`. -/
def Operand.load (o : Operand) (s : State) : Result Byte :=
  match o with
  | .immediate n => .next (n, s)
  | .accumulator => .next (s.a, s)
  | .memory p => andThen (p.locate s) fun r => readByte r.1 r.2

/-- `DATA` can be read. -/
def Operand.ready (o : Operand) (s : State) : Bool :=
  match o with
  | .immediate _ | .accumulator => true
  | .memory p => p.reachable s && s.readable (p.address s)

/-- `DATA`, in closed form. -/
def Operand.data (o : Operand) (s : State) : Byte :=
  match o with
  | .immediate n => n
  | .accumulator => s.a
  | .memory p => (p.settled s).readValue (p.address s)

/-- The state once `DATA` is read: the pointer reads and the data read are on record (R61). -/
def Operand.fetched (o : Operand) (s : State) : State :=
  match o with
  | .immediate _ | .accumulator => s
  | .memory p => (p.settled s).afterRead (p.address s)

/-! ## The three classes of R61 -/

/-- An instruction that reads `DATA` and changes registers and flags. -/
def readClass (o : Operand) (effect : Byte → State → State) (s : State) : Exec :=
  andThen (o.load s) fun r => .next ((effect r.1 r.2).advance o.length)

/-- An instruction that stores a byte: the location is not read (R194). -/
def storeClass (p : Place) (v : Byte) (s : State) : Exec :=
  andThen (p.locate s) fun r => andThen (writeByte r.1 v r.2) fun t => .next (t.advance p.length)

/-- An instruction that reads a memory byte and writes its result to the same address, computed once (R74). `f` gives the result
and the flags. -/
def modifyClass (p : Place) (f : Byte → Flags → Byte × Flags) (s : State) : Exec :=
  andThen (p.locate s) fun r =>
    andThen (readByte r.1 r.2) fun d =>
      andThen (writeByte r.1 (f d.1 s.p).1 d.2) fun t => .next ((t.setP (f d.1 s.p).2).advance p.length)

/-- The accumulator form of an instruction that modifies its operand (R76, R130). -/
def modifyA (f : Byte → Flags → Byte × Flags) (s : State) : Exec :=
  .next (((s.setA (f s.a s.p).1).setP (f s.a s.p).2).advance 1)

end Sys2Proof.Machine
end

