-- ==== Sys2Proof/Machine/Arithmetic.lean ====
section
/-! DEFINITION. ADC, SBC, CMP, CPX, CPY (spec/40_arithmetic.md). -/

namespace Sys2Proof.Machine

/-- A binary sum or difference goes to A and writes N, V, Z, C (R111, R113). -/
def binaryResult (r : Arith) (s : State) : State :=
  (s.setA r.value).setP (({ s.p with v := r.overflow, c := r.carry } : Flags).setNZ r.value)

/-- A decimal sum or difference (R112). Of valid BCD operands it goes to A and C, and N, V, Z are draws (`DECIMAL_FLAGS`); of others
A and all four flags are draws. -/
def decimalResult (valid : Bool) (r : Byte × Bool) (s : State) : State :=
  match s.sys.decimalFlags, valid with
  | .draw, true =>
    ((s.setA r.1).setP { s.p with
      n := Config.drawBit s.draws, v := Config.drawBit (s.draws + 1), z := Config.drawBit (s.draws + 2), c := r.2 }).setDraws
      (s.draws + 3)
  | .draw, false =>
    ((s.setA (Config.drawByte s.draws)).setP { s.p with
      n := Config.drawBit (s.draws + 1), v := Config.drawBit (s.draws + 2), z := Config.drawBit (s.draws + 3),
      c := Config.drawBit (s.draws + 4) }).setDraws (s.draws + 5)

/-- ADC of `DATA` m (R111, R112). -/
def adc (m : Byte) (s : State) : State :=
  if s.p.d then decimalResult (validBcd s.a && validBcd m) (adcDecimal s.a m s.p.c) s
  else binaryResult (adcBinary s.a m s.p.c) s

/-- SBC of `DATA` m (R113, R112). -/
def sbc (m : Byte) (s : State) : State :=
  if s.p.d then decimalResult (validBcd s.a && validBcd m) (sbcDecimal s.a m s.p.c) s
  else binaryResult (sbcBinary s.a m s.p.c) s

/-- CMP of `DATA` m (R114). -/
def compareA (m : Byte) (s : State) : State := s.setP (compareFlags s.p s.a m)

/-- CPX of `DATA` m (R115). -/
def compareX (m : Byte) (s : State) : State := s.setP (compareFlags s.p s.x m)

/-- CPY of `DATA` m (R116). -/
def compareY (m : Byte) (s : State) : State := s.setP (compareFlags s.p s.y m)

/-- ADC #n (R111). -/
def execAdcImm (n : Byte) (s : State) : Exec := readClass (.immediate n) adc s

/-- ADC nn (R111). -/
def execAdcAbs (nn : Addr) (s : State) : Exec := readClass (.memory (.absolute nn)) adc s

/-- ADC n (R111). -/
def execAdcZp (n : Byte) (s : State) : Exec := readClass (.memory (.zeroPage n)) adc s

/-- ADC (n,X) (R111). -/
def execAdcIndX (n : Byte) (s : State) : Exec := readClass (.memory (.indX n)) adc s

/-- ADC (n),Y (R111). -/
def execAdcIndY (n : Byte) (s : State) : Exec := readClass (.memory (.indY n)) adc s

/-- ADC n,X (R111). -/
def execAdcZpX (n : Byte) (s : State) : Exec := readClass (.memory (.zeroPageX n)) adc s

/-- ADC nn,X (R111). -/
def execAdcAbsX (nn : Addr) (s : State) : Exec := readClass (.memory (.absoluteX nn)) adc s

/-- ADC nn,Y (R111). -/
def execAdcAbsY (nn : Addr) (s : State) : Exec := readClass (.memory (.absoluteY nn)) adc s

/-- SBC #n (R113). -/
def execSbcImm (n : Byte) (s : State) : Exec := readClass (.immediate n) sbc s

/-- SBC nn (R113). -/
def execSbcAbs (nn : Addr) (s : State) : Exec := readClass (.memory (.absolute nn)) sbc s

/-- SBC n (R113). -/
def execSbcZp (n : Byte) (s : State) : Exec := readClass (.memory (.zeroPage n)) sbc s

/-- SBC (n,X) (R113). -/
def execSbcIndX (n : Byte) (s : State) : Exec := readClass (.memory (.indX n)) sbc s

/-- SBC (n),Y (R113). -/
def execSbcIndY (n : Byte) (s : State) : Exec := readClass (.memory (.indY n)) sbc s

/-- SBC n,X (R113). -/
def execSbcZpX (n : Byte) (s : State) : Exec := readClass (.memory (.zeroPageX n)) sbc s

/-- SBC nn,X (R113). -/
def execSbcAbsX (nn : Addr) (s : State) : Exec := readClass (.memory (.absoluteX nn)) sbc s

/-- SBC nn,Y (R113). -/
def execSbcAbsY (nn : Addr) (s : State) : Exec := readClass (.memory (.absoluteY nn)) sbc s

/-- CMP #n (R114). -/
def execCmpImm (n : Byte) (s : State) : Exec := readClass (.immediate n) compareA s

/-- CMP nn (R114). -/
def execCmpAbs (nn : Addr) (s : State) : Exec := readClass (.memory (.absolute nn)) compareA s

/-- CMP n (R114). -/
def execCmpZp (n : Byte) (s : State) : Exec := readClass (.memory (.zeroPage n)) compareA s

/-- CMP (n,X) (R114). -/
def execCmpIndX (n : Byte) (s : State) : Exec := readClass (.memory (.indX n)) compareA s

/-- CMP (n),Y (R114). -/
def execCmpIndY (n : Byte) (s : State) : Exec := readClass (.memory (.indY n)) compareA s

/-- CMP n,X (R114). -/
def execCmpZpX (n : Byte) (s : State) : Exec := readClass (.memory (.zeroPageX n)) compareA s

/-- CMP nn,X (R114). -/
def execCmpAbsX (nn : Addr) (s : State) : Exec := readClass (.memory (.absoluteX nn)) compareA s

/-- CMP nn,Y (R114). -/
def execCmpAbsY (nn : Addr) (s : State) : Exec := readClass (.memory (.absoluteY nn)) compareA s

/-- CPX #n (R115). -/
def execCpxImm (n : Byte) (s : State) : Exec := readClass (.immediate n) compareX s

/-- CPX nn (R115). -/
def execCpxAbs (nn : Addr) (s : State) : Exec := readClass (.memory (.absolute nn)) compareX s

/-- CPX n (R115). -/
def execCpxZp (n : Byte) (s : State) : Exec := readClass (.memory (.zeroPage n)) compareX s

/-- CPY #n (R116). -/
def execCpyImm (n : Byte) (s : State) : Exec := readClass (.immediate n) compareY s

/-- CPY nn (R116). -/
def execCpyAbs (nn : Addr) (s : State) : Exec := readClass (.memory (.absolute nn)) compareY s

/-- CPY n (R116). -/
def execCpyZp (n : Byte) (s : State) : Exec := readClass (.memory (.zeroPage n)) compareY s

end Sys2Proof.Machine
end

