-- ==== Sys2Proof/Machine/Branch.lean ====
section
/-! DEFINITION. The branches, JMP, JSR, RTS (spec/43_branch_jump.md). -/

namespace Sys2Proof.Machine

/-- The target of a branch at `pc` with displacement n (R88): measured from the address of the next instruction. -/
def branchTarget (pc : Addr) (n : Byte) : Addr := pc + 2 + sext16 n

/-- The common rule of the branches (R140). -/
def branchIf (taken : Bool) (n : Byte) (s : State) : Exec :=
  .next (s.setPc (if taken then branchTarget s.pc n else s.pc + 2))

/-- BCC n (R141). -/
def execBcc (n : Byte) (s : State) : Exec := branchIf (!s.p.c) n s

/-- BCS n (R142). -/
def execBcs (n : Byte) (s : State) : Exec := branchIf s.p.c n s

/-- BEQ n (R143). -/
def execBeq (n : Byte) (s : State) : Exec := branchIf s.p.z n s

/-- BNE n (R144). -/
def execBne (n : Byte) (s : State) : Exec := branchIf (!s.p.z) n s

/-- BMI n (R145). -/
def execBmi (n : Byte) (s : State) : Exec := branchIf s.p.n n s

/-- BPL n (R146). -/
def execBpl (n : Byte) (s : State) : Exec := branchIf (!s.p.n) n s

/-- BVC n (R147). -/
def execBvc (n : Byte) (s : State) : Exec := branchIf (!s.p.v) n s

/-- BVS n (R148). -/
def execBvs (n : Byte) (s : State) : Exec := branchIf s.p.v n s

/-- JMP nn (R149). -/
def execJmpAbs (nn : Addr) (s : State) : Exec := .next (s.setPc nn)

/-- JMP (nn) (R150). -/
def execJmpInd (nn : Addr) (s : State) : Exec := andThen (readPointer nn s) fun r => .next (r.2.setPc r.1)

/-- JSR nn (R151): the address of its own last byte is pushed, high byte first. -/
def execJsrAbs (nn : Addr) (s : State) : Exec := andThen (pushWord (s.pc + 2) s) fun t => .next (t.setPc nn)

/-- RTS (R152): the pulled address plus one. -/
def execRts (s : State) : Exec := andThen (pullWord s) fun r => .next (r.2.setPc (r.1 + 1))

end Sys2Proof.Machine
end

