-- ==== Sys2Proof/Machine/FlagOps.lean ====
section
/-! DEFINITION. CLC, CLD, CLI, CLV, SEC, SED, SEI (spec/45_flag_ops.md). CLI and SEI may hold the old I for one boundary (spec/60_exceptions.md R229). -/

namespace Sys2Proof.Machine

/-- CLC (R171). -/
def execClc (s : State) : Exec := .next ((s.setP { s.p with c := false }).advance 1)

/-- CLD (R172). -/
def execCld (s : State) : Exec := .next ((s.setP { s.p with d := false }).advance 1)

/-- CLI (R173). -/
def execCli (s : State) : Exec := .next (((s.setP { s.p with i := false }).holdMask s.p.i).advance 1)

/-- CLV (R174). -/
def execClv (s : State) : Exec := .next ((s.setP { s.p with v := false }).advance 1)

/-- SEC (R175). -/
def execSec (s : State) : Exec := .next ((s.setP { s.p with c := true }).advance 1)

/-- SED (R176). -/
def execSed (s : State) : Exec := .next ((s.setP { s.p with d := true }).advance 1)

/-- SEI (R177). -/
def execSei (s : State) : Exec := .next (((s.setP { s.p with i := true }).holdMask s.p.i).advance 1)

end Sys2Proof.Machine
end

