-- ==== Sys2Proof/Machine/IncDec.lean ====
section
/-! DEFINITION. DEC, DEX, DEY, INC, INX, INY (spec/46_incdec.md): binary whatever D is (R180). -/

namespace Sys2Proof.Machine

/-- DEC of a byte (R181): the result modulo 256, with N and Z. -/
def decrement (v : Byte) (f : Flags) : Byte × Flags := (v - 1, f.setNZ (v - 1))

/-- INC of a byte (R184). -/
def increment (v : Byte) (f : Flags) : Byte × Flags := (v + 1, f.setNZ (v + 1))

/-- DEC nn (R181). -/
def execDecAbs (nn : Addr) (s : State) : Exec := modifyClass (.absolute nn) decrement s

/-- DEC n (R181). -/
def execDecZp (n : Byte) (s : State) : Exec := modifyClass (.zeroPage n) decrement s

/-- DEC n,X (R181). -/
def execDecZpX (n : Byte) (s : State) : Exec := modifyClass (.zeroPageX n) decrement s

/-- DEC nn,X (R181). -/
def execDecAbsX (nn : Addr) (s : State) : Exec := modifyClass (.absoluteX nn) decrement s

/-- DEX (R182). -/
def execDex (s : State) : Exec := .next ((s.loadX (s.x - 1)).advance 1)

/-- DEY (R183). -/
def execDey (s : State) : Exec := .next ((s.loadY (s.y - 1)).advance 1)

/-- INC nn (R184). -/
def execIncAbs (nn : Addr) (s : State) : Exec := modifyClass (.absolute nn) increment s

/-- INC n (R184). -/
def execIncZp (n : Byte) (s : State) : Exec := modifyClass (.zeroPage n) increment s

/-- INC n,X (R184). -/
def execIncZpX (n : Byte) (s : State) : Exec := modifyClass (.zeroPageX n) increment s

/-- INC nn,X (R184). -/
def execIncAbsX (nn : Addr) (s : State) : Exec := modifyClass (.absoluteX nn) increment s

/-- INX (R185). -/
def execInx (s : State) : Exec := .next ((s.loadX (s.x + 1)).advance 1)

/-- INY (R186). -/
def execIny (s : State) : Exec := .next ((s.loadY (s.y + 1)).advance 1)

end Sys2Proof.Machine
end

