-- ==== Sys2Proof/Machine/LoadStore.lean ====
section
/-! DEFINITION. LDA, LDX, LDY, STA, STX, STY (spec/47_load_store.md). -/

namespace Sys2Proof.Machine

/-- LDA of `DATA` m (R191). -/
def lda (m : Byte) (s : State) : State := s.loadA m

/-- LDX of `DATA` m (R192). -/
def ldx (m : Byte) (s : State) : State := s.loadX m

/-- LDY of `DATA` m (R193). -/
def ldy (m : Byte) (s : State) : State := s.loadY m

/-- LDA #n (R191). -/
def execLdaImm (n : Byte) (s : State) : Exec := readClass (.immediate n) lda s

/-- LDA nn (R191). -/
def execLdaAbs (nn : Addr) (s : State) : Exec := readClass (.memory (.absolute nn)) lda s

/-- LDA n (R191). -/
def execLdaZp (n : Byte) (s : State) : Exec := readClass (.memory (.zeroPage n)) lda s

/-- LDA (n,X) (R191). -/
def execLdaIndX (n : Byte) (s : State) : Exec := readClass (.memory (.indX n)) lda s

/-- LDA (n),Y (R191). -/
def execLdaIndY (n : Byte) (s : State) : Exec := readClass (.memory (.indY n)) lda s

/-- LDA n,X (R191). -/
def execLdaZpX (n : Byte) (s : State) : Exec := readClass (.memory (.zeroPageX n)) lda s

/-- LDA nn,X (R191). -/
def execLdaAbsX (nn : Addr) (s : State) : Exec := readClass (.memory (.absoluteX nn)) lda s

/-- LDA nn,Y (R191). -/
def execLdaAbsY (nn : Addr) (s : State) : Exec := readClass (.memory (.absoluteY nn)) lda s

/-- LDX #n (R192). -/
def execLdxImm (n : Byte) (s : State) : Exec := readClass (.immediate n) ldx s

/-- LDX nn (R192). -/
def execLdxAbs (nn : Addr) (s : State) : Exec := readClass (.memory (.absolute nn)) ldx s

/-- LDX n (R192). -/
def execLdxZp (n : Byte) (s : State) : Exec := readClass (.memory (.zeroPage n)) ldx s

/-- LDX nn,Y (R192). -/
def execLdxAbsY (nn : Addr) (s : State) : Exec := readClass (.memory (.absoluteY nn)) ldx s

/-- LDX n,Y (R192). -/
def execLdxZpY (n : Byte) (s : State) : Exec := readClass (.memory (.zeroPageY n)) ldx s

/-- LDY #n (R193). -/
def execLdyImm (n : Byte) (s : State) : Exec := readClass (.immediate n) ldy s

/-- LDY nn (R193). -/
def execLdyAbs (nn : Addr) (s : State) : Exec := readClass (.memory (.absolute nn)) ldy s

/-- LDY n (R193). -/
def execLdyZp (n : Byte) (s : State) : Exec := readClass (.memory (.zeroPage n)) ldy s

/-- LDY n,X (R193). -/
def execLdyZpX (n : Byte) (s : State) : Exec := readClass (.memory (.zeroPageX n)) ldy s

/-- LDY nn,X (R193). -/
def execLdyAbsX (nn : Addr) (s : State) : Exec := readClass (.memory (.absoluteX nn)) ldy s

/-- STA nn (R194). -/
def execStaAbs (nn : Addr) (s : State) : Exec := storeClass (.absolute nn) s.a s

/-- STA n (R194). -/
def execStaZp (n : Byte) (s : State) : Exec := storeClass (.zeroPage n) s.a s

/-- STA (n,X) (R194). -/
def execStaIndX (n : Byte) (s : State) : Exec := storeClass (.indX n) s.a s

/-- STA (n),Y (R194). -/
def execStaIndY (n : Byte) (s : State) : Exec := storeClass (.indY n) s.a s

/-- STA n,X (R194). -/
def execStaZpX (n : Byte) (s : State) : Exec := storeClass (.zeroPageX n) s.a s

/-- STA nn,X (R194). -/
def execStaAbsX (nn : Addr) (s : State) : Exec := storeClass (.absoluteX nn) s.a s

/-- STA nn,Y (R194). -/
def execStaAbsY (nn : Addr) (s : State) : Exec := storeClass (.absoluteY nn) s.a s

/-- STX nn (R195). -/
def execStxAbs (nn : Addr) (s : State) : Exec := storeClass (.absolute nn) s.x s

/-- STX n (R195). -/
def execStxZp (n : Byte) (s : State) : Exec := storeClass (.zeroPage n) s.x s

/-- STX n,Y (R195). -/
def execStxZpY (n : Byte) (s : State) : Exec := storeClass (.zeroPageY n) s.x s

/-- STY nn (R196). -/
def execStyAbs (nn : Addr) (s : State) : Exec := storeClass (.absolute nn) s.y s

/-- STY n (R196). -/
def execStyZp (n : Byte) (s : State) : Exec := storeClass (.zeroPage n) s.y s

/-- STY n,X (R196). -/
def execStyZpX (n : Byte) (s : State) : Exec := storeClass (.zeroPageX n) s.y s

end Sys2Proof.Machine
end

