-- ==== Sys2Proof/Machine/Logic.lean ====
section
/-! DEFINITION. AND, EOR, ORA, BIT (spec/41_logic.md). -/

namespace Sys2Proof.Machine

/-- AND of `DATA` m (R121). -/
def andA (m : Byte) (s : State) : State := s.loadA (s.a &&& m)

/-- EOR of `DATA` m (R122). -/
def eorA (m : Byte) (s : State) : State := s.loadA (s.a ^^^ m)

/-- ORA of `DATA` m (R123). -/
def oraA (m : Byte) (s : State) : State := s.loadA (s.a ||| m)

/-- BIT of `DATA` m (R124): N and V are bits 7 and 6 of `DATA`, Z says that A AND `DATA` is zero; A is kept. -/
def bitTest (m : Byte) (s : State) : State :=
  s.setP { s.p with n := m.getLsbD 7, v := m.getLsbD 6, z := s.a &&& m == 0 }

/-- AND #n (R121). -/
def execAndImm (n : Byte) (s : State) : Exec := readClass (.immediate n) andA s

/-- AND nn (R121). -/
def execAndAbs (nn : Addr) (s : State) : Exec := readClass (.memory (.absolute nn)) andA s

/-- AND n (R121). -/
def execAndZp (n : Byte) (s : State) : Exec := readClass (.memory (.zeroPage n)) andA s

/-- AND (n,X) (R121). -/
def execAndIndX (n : Byte) (s : State) : Exec := readClass (.memory (.indX n)) andA s

/-- AND (n),Y (R121). -/
def execAndIndY (n : Byte) (s : State) : Exec := readClass (.memory (.indY n)) andA s

/-- AND n,X (R121). -/
def execAndZpX (n : Byte) (s : State) : Exec := readClass (.memory (.zeroPageX n)) andA s

/-- AND nn,X (R121). -/
def execAndAbsX (nn : Addr) (s : State) : Exec := readClass (.memory (.absoluteX nn)) andA s

/-- AND nn,Y (R121). -/
def execAndAbsY (nn : Addr) (s : State) : Exec := readClass (.memory (.absoluteY nn)) andA s

/-- EOR #n (R122). -/
def execEorImm (n : Byte) (s : State) : Exec := readClass (.immediate n) eorA s

/-- EOR nn (R122). -/
def execEorAbs (nn : Addr) (s : State) : Exec := readClass (.memory (.absolute nn)) eorA s

/-- EOR n (R122). -/
def execEorZp (n : Byte) (s : State) : Exec := readClass (.memory (.zeroPage n)) eorA s

/-- EOR (n,X) (R122). -/
def execEorIndX (n : Byte) (s : State) : Exec := readClass (.memory (.indX n)) eorA s

/-- EOR (n),Y (R122). -/
def execEorIndY (n : Byte) (s : State) : Exec := readClass (.memory (.indY n)) eorA s

/-- EOR n,X (R122). -/
def execEorZpX (n : Byte) (s : State) : Exec := readClass (.memory (.zeroPageX n)) eorA s

/-- EOR nn,X (R122). -/
def execEorAbsX (nn : Addr) (s : State) : Exec := readClass (.memory (.absoluteX nn)) eorA s

/-- EOR nn,Y (R122). -/
def execEorAbsY (nn : Addr) (s : State) : Exec := readClass (.memory (.absoluteY nn)) eorA s

/-- ORA #n (R123). -/
def execOraImm (n : Byte) (s : State) : Exec := readClass (.immediate n) oraA s

/-- ORA nn (R123). -/
def execOraAbs (nn : Addr) (s : State) : Exec := readClass (.memory (.absolute nn)) oraA s

/-- ORA n (R123). -/
def execOraZp (n : Byte) (s : State) : Exec := readClass (.memory (.zeroPage n)) oraA s

/-- ORA (n,X) (R123). -/
def execOraIndX (n : Byte) (s : State) : Exec := readClass (.memory (.indX n)) oraA s

/-- ORA (n),Y (R123). -/
def execOraIndY (n : Byte) (s : State) : Exec := readClass (.memory (.indY n)) oraA s

/-- ORA n,X (R123). -/
def execOraZpX (n : Byte) (s : State) : Exec := readClass (.memory (.zeroPageX n)) oraA s

/-- ORA nn,X (R123). -/
def execOraAbsX (nn : Addr) (s : State) : Exec := readClass (.memory (.absoluteX nn)) oraA s

/-- ORA nn,Y (R123). -/
def execOraAbsY (nn : Addr) (s : State) : Exec := readClass (.memory (.absoluteY nn)) oraA s

/-- BIT nn (R124). -/
def execBitAbs (nn : Addr) (s : State) : Exec := readClass (.memory (.absolute nn)) bitTest s

/-- BIT n (R124). -/
def execBitZp (n : Byte) (s : State) : Exec := readClass (.memory (.zeroPage n)) bitTest s

end Sys2Proof.Machine
end

