-- ==== Sys2Proof/Machine/Shift.lean ====
section
/-! DEFINITION. ASL, LSR, ROL, ROR (spec/42_shift_rotate.md). -/

namespace Sys2Proof.Machine

/-- The result of a shift with the flags it leaves: C the bit shifted out, N and Z from the result. -/
def shifted (r : Byte × Bool) (f : Flags) : Byte × Flags := (r.1, ({ f with c := r.2 } : Flags).setNZ r.1)

/-- ASL (R131). -/
def asl (v : Byte) (f : Flags) : Byte × Flags := shifted (aslByte v) f

/-- LSR (R132). -/
def lsr (v : Byte) (f : Flags) : Byte × Flags := shifted (lsrByte v) f

/-- ROL (R133). -/
def rol (v : Byte) (f : Flags) : Byte × Flags := shifted (rolByte v f.c) f

/-- ROR (R134). -/
def ror (v : Byte) (f : Flags) : Byte × Flags := shifted (rorByte v f.c) f

/-- ASL nn (R131). -/
def execAslAbs (nn : Addr) (s : State) : Exec := modifyClass (.absolute nn) asl s

/-- ASL n (R131). -/
def execAslZp (n : Byte) (s : State) : Exec := modifyClass (.zeroPage n) asl s

/-- ASL A (R131). -/
def execAslAcc (s : State) : Exec := modifyA asl s

/-- ASL n,X (R131). -/
def execAslZpX (n : Byte) (s : State) : Exec := modifyClass (.zeroPageX n) asl s

/-- ASL nn,X (R131). -/
def execAslAbsX (nn : Addr) (s : State) : Exec := modifyClass (.absoluteX nn) asl s

/-- LSR nn (R132). -/
def execLsrAbs (nn : Addr) (s : State) : Exec := modifyClass (.absolute nn) lsr s

/-- LSR n (R132). -/
def execLsrZp (n : Byte) (s : State) : Exec := modifyClass (.zeroPage n) lsr s

/-- LSR A (R132). -/
def execLsrAcc (s : State) : Exec := modifyA lsr s

/-- LSR n,X (R132). -/
def execLsrZpX (n : Byte) (s : State) : Exec := modifyClass (.zeroPageX n) lsr s

/-- LSR nn,X (R132). -/
def execLsrAbsX (nn : Addr) (s : State) : Exec := modifyClass (.absoluteX nn) lsr s

/-- ROL nn (R133). -/
def execRolAbs (nn : Addr) (s : State) : Exec := modifyClass (.absolute nn) rol s

/-- ROL n (R133). -/
def execRolZp (n : Byte) (s : State) : Exec := modifyClass (.zeroPage n) rol s

/-- ROL A (R133). -/
def execRolAcc (s : State) : Exec := modifyA rol s

/-- ROL n,X (R133). -/
def execRolZpX (n : Byte) (s : State) : Exec := modifyClass (.zeroPageX n) rol s

/-- ROL nn,X (R133). -/
def execRolAbsX (nn : Addr) (s : State) : Exec := modifyClass (.absoluteX nn) rol s

/-- ROR nn (R134). -/
def execRorAbs (nn : Addr) (s : State) : Exec := modifyClass (.absolute nn) ror s

/-- ROR n (R134). -/
def execRorZp (n : Byte) (s : State) : Exec := modifyClass (.zeroPage n) ror s

/-- ROR A (R134). -/
def execRorAcc (s : State) : Exec := modifyA ror s

/-- ROR n,X (R134). -/
def execRorZpX (n : Byte) (s : State) : Exec := modifyClass (.zeroPageX n) ror s

/-- ROR nn,X (R134). -/
def execRorAbsX (nn : Addr) (s : State) : Exec := modifyClass (.absoluteX nn) ror s

end Sys2Proof.Machine
end

