-- ==== Sys2Proof/Machine/StackTransfer.lean ====
section
/-! DEFINITION. PHA, PHP, PLA, PLP and the six register transfers (spec/48_stack_transfer.md). -/

namespace Sys2Proof.Machine

/-- PHA (R201). -/
def execPha (s : State) : Exec := andThen (push s.a s) fun t => .next (t.advance 1)

/-- PHP (R202). -/
def execPhp (s : State) : Exec := andThen (pushStatus .php s) fun t => .next (t.advance 1)

/-- PLA (R203). -/
def execPla (s : State) : Exec := andThen (pull s) fun r => .next ((r.2.loadA r.1).advance 1)

/-- PLP (R204). It may hold the old I for one boundary (R229). -/
def execPlp (s : State) : Exec :=
  andThen (pull s) fun r => .next (((r.2.setP (flagsOf r.1)).holdMask s.p.i).advance 1)

/-- TAX (R205). -/
def execTax (s : State) : Exec := .next ((s.loadX s.a).advance 1)

/-- TAY (R206). -/
def execTay (s : State) : Exec := .next ((s.loadY s.a).advance 1)

/-- TSX (R207). -/
def execTsx (s : State) : Exec := .next ((s.loadX s.sp).advance 1)

/-- TXA (R208). -/
def execTxa (s : State) : Exec := .next ((s.loadA s.x).advance 1)

/-- TXS (R209): the one transfer that writes no flag. -/
def execTxs (s : State) : Exec := .next ((s.setSp s.x).advance 1)

/-- TYA (R210). -/
def execTya (s : State) : Exec := .next ((s.loadA s.y).advance 1)

end Sys2Proof.Machine
end

