-- ==== Sys2Proof/Machine/System.lean ====
section
/-! DEFINITION. BRK, RTI, NOP (spec/44_system.md). -/

namespace Sys2Proof.Machine

/-- BRK (R160): the entry sequence with the address of BRK plus 2 and B = 1, whatever I is. -/
def execBrk (s : State) : Exec := enterInterrupt irqVector (s.pc + 2) .brk s

/-- RTI (R161). -/
def execRti (s : State) : Exec := returnFromInterrupt s

/-- NOP (R162). -/
def execNop (s : State) : Exec := .next (s.advance 1)

end Sys2Proof.Machine
end

