-- ==== Sys2Proof/Machine/Dispatch.lean ====
section
/-! DEFINITION. The dispatch: one arm for each constructor of Instr, each a direct call of its meaning. `exec` is given the state
in which PC is still the address of the opcode byte (spec/10_state.md R16). -/

namespace Sys2Proof.Machine

open Sys2Proof (Instr)

def exec (i : Instr) (s : State) : Host.Outcome State Fault Refusal :=
  match i with
  | .adcImm n => Sys2Proof.Machine.execAdcImm n s
  | .adcAbs nn => Sys2Proof.Machine.execAdcAbs nn s
  | .adcZp n => Sys2Proof.Machine.execAdcZp n s
  | .adcIndX n => Sys2Proof.Machine.execAdcIndX n s
  | .adcIndY n => Sys2Proof.Machine.execAdcIndY n s
  | .adcZpX n => Sys2Proof.Machine.execAdcZpX n s
  | .adcAbsX nn => Sys2Proof.Machine.execAdcAbsX nn s
  | .adcAbsY nn => Sys2Proof.Machine.execAdcAbsY nn s
  | .andImm n => Sys2Proof.Machine.execAndImm n s
  | .andAbs nn => Sys2Proof.Machine.execAndAbs nn s
  | .andZp n => Sys2Proof.Machine.execAndZp n s
  | .andIndX n => Sys2Proof.Machine.execAndIndX n s
  | .andIndY n => Sys2Proof.Machine.execAndIndY n s
  | .andZpX n => Sys2Proof.Machine.execAndZpX n s
  | .andAbsX nn => Sys2Proof.Machine.execAndAbsX nn s
  | .andAbsY nn => Sys2Proof.Machine.execAndAbsY nn s
  | .aslAbs nn => Sys2Proof.Machine.execAslAbs nn s
  | .aslZp n => Sys2Proof.Machine.execAslZp n s
  | .aslAcc => Sys2Proof.Machine.execAslAcc s
  | .aslZpX n => Sys2Proof.Machine.execAslZpX n s
  | .aslAbsX nn => Sys2Proof.Machine.execAslAbsX nn s
  | .bcc n => Sys2Proof.Machine.execBcc n s
  | .bcs n => Sys2Proof.Machine.execBcs n s
  | .beq n => Sys2Proof.Machine.execBeq n s
  | .bne n => Sys2Proof.Machine.execBne n s
  | .bmi n => Sys2Proof.Machine.execBmi n s
  | .bpl n => Sys2Proof.Machine.execBpl n s
  | .bvc n => Sys2Proof.Machine.execBvc n s
  | .bvs n => Sys2Proof.Machine.execBvs n s
  | .bitAbs nn => Sys2Proof.Machine.execBitAbs nn s
  | .bitZp n => Sys2Proof.Machine.execBitZp n s
  | .brk => Sys2Proof.Machine.execBrk s
  | .clc => Sys2Proof.Machine.execClc s
  | .cld => Sys2Proof.Machine.execCld s
  | .cli => Sys2Proof.Machine.execCli s
  | .clv => Sys2Proof.Machine.execClv s
  | .cmpImm n => Sys2Proof.Machine.execCmpImm n s
  | .cmpAbs nn => Sys2Proof.Machine.execCmpAbs nn s
  | .cmpZp n => Sys2Proof.Machine.execCmpZp n s
  | .cmpIndX n => Sys2Proof.Machine.execCmpIndX n s
  | .cmpIndY n => Sys2Proof.Machine.execCmpIndY n s
  | .cmpZpX n => Sys2Proof.Machine.execCmpZpX n s
  | .cmpAbsX nn => Sys2Proof.Machine.execCmpAbsX nn s
  | .cmpAbsY nn => Sys2Proof.Machine.execCmpAbsY nn s
  | .cpxImm n => Sys2Proof.Machine.execCpxImm n s
  | .cpxAbs nn => Sys2Proof.Machine.execCpxAbs nn s
  | .cpxZp n => Sys2Proof.Machine.execCpxZp n s
  | .cpyImm n => Sys2Proof.Machine.execCpyImm n s
  | .cpyAbs nn => Sys2Proof.Machine.execCpyAbs nn s
  | .cpyZp n => Sys2Proof.Machine.execCpyZp n s
  | .decAbs nn => Sys2Proof.Machine.execDecAbs nn s
  | .decZp n => Sys2Proof.Machine.execDecZp n s
  | .decZpX n => Sys2Proof.Machine.execDecZpX n s
  | .decAbsX nn => Sys2Proof.Machine.execDecAbsX nn s
  | .dex => Sys2Proof.Machine.execDex s
  | .dey => Sys2Proof.Machine.execDey s
  | .eorImm n => Sys2Proof.Machine.execEorImm n s
  | .eorAbs nn => Sys2Proof.Machine.execEorAbs nn s
  | .eorZp n => Sys2Proof.Machine.execEorZp n s
  | .eorIndX n => Sys2Proof.Machine.execEorIndX n s
  | .eorIndY n => Sys2Proof.Machine.execEorIndY n s
  | .eorZpX n => Sys2Proof.Machine.execEorZpX n s
  | .eorAbsX nn => Sys2Proof.Machine.execEorAbsX nn s
  | .eorAbsY nn => Sys2Proof.Machine.execEorAbsY nn s
  | .incAbs nn => Sys2Proof.Machine.execIncAbs nn s
  | .incZp n => Sys2Proof.Machine.execIncZp n s
  | .incZpX n => Sys2Proof.Machine.execIncZpX n s
  | .incAbsX nn => Sys2Proof.Machine.execIncAbsX nn s
  | .inx => Sys2Proof.Machine.execInx s
  | .iny => Sys2Proof.Machine.execIny s
  | .jmpAbs nn => Sys2Proof.Machine.execJmpAbs nn s
  | .jmpInd nn => Sys2Proof.Machine.execJmpInd nn s
  | .jsrAbs nn => Sys2Proof.Machine.execJsrAbs nn s
  | .ldaImm n => Sys2Proof.Machine.execLdaImm n s
  | .ldaAbs nn => Sys2Proof.Machine.execLdaAbs nn s
  | .ldaZp n => Sys2Proof.Machine.execLdaZp n s
  | .ldaIndX n => Sys2Proof.Machine.execLdaIndX n s
  | .ldaIndY n => Sys2Proof.Machine.execLdaIndY n s
  | .ldaZpX n => Sys2Proof.Machine.execLdaZpX n s
  | .ldaAbsX nn => Sys2Proof.Machine.execLdaAbsX nn s
  | .ldaAbsY nn => Sys2Proof.Machine.execLdaAbsY nn s
  | .ldxImm n => Sys2Proof.Machine.execLdxImm n s
  | .ldxAbs nn => Sys2Proof.Machine.execLdxAbs nn s
  | .ldxZp n => Sys2Proof.Machine.execLdxZp n s
  | .ldxAbsY nn => Sys2Proof.Machine.execLdxAbsY nn s
  | .ldxZpY n => Sys2Proof.Machine.execLdxZpY n s
  | .ldyImm n => Sys2Proof.Machine.execLdyImm n s
  | .ldyAbs nn => Sys2Proof.Machine.execLdyAbs nn s
  | .ldyZp n => Sys2Proof.Machine.execLdyZp n s
  | .ldyZpX n => Sys2Proof.Machine.execLdyZpX n s
  | .ldyAbsX nn => Sys2Proof.Machine.execLdyAbsX nn s
  | .lsrAbs nn => Sys2Proof.Machine.execLsrAbs nn s
  | .lsrZp n => Sys2Proof.Machine.execLsrZp n s
  | .lsrAcc => Sys2Proof.Machine.execLsrAcc s
  | .lsrZpX n => Sys2Proof.Machine.execLsrZpX n s
  | .lsrAbsX nn => Sys2Proof.Machine.execLsrAbsX nn s
  | .nop => Sys2Proof.Machine.execNop s
  | .oraImm n => Sys2Proof.Machine.execOraImm n s
  | .oraAbs nn => Sys2Proof.Machine.execOraAbs nn s
  | .oraZp n => Sys2Proof.Machine.execOraZp n s
  | .oraIndX n => Sys2Proof.Machine.execOraIndX n s
  | .oraIndY n => Sys2Proof.Machine.execOraIndY n s
  | .oraZpX n => Sys2Proof.Machine.execOraZpX n s
  | .oraAbsX nn => Sys2Proof.Machine.execOraAbsX nn s
  | .oraAbsY nn => Sys2Proof.Machine.execOraAbsY nn s
  | .pha => Sys2Proof.Machine.execPha s
  | .php => Sys2Proof.Machine.execPhp s
  | .pla => Sys2Proof.Machine.execPla s
  | .plp => Sys2Proof.Machine.execPlp s
  | .rolAbs nn => Sys2Proof.Machine.execRolAbs nn s
  | .rolZp n => Sys2Proof.Machine.execRolZp n s
  | .rolAcc => Sys2Proof.Machine.execRolAcc s
  | .rolZpX n => Sys2Proof.Machine.execRolZpX n s
  | .rolAbsX nn => Sys2Proof.Machine.execRolAbsX nn s
  | .rorAbs nn => Sys2Proof.Machine.execRorAbs nn s
  | .rorZp n => Sys2Proof.Machine.execRorZp n s
  | .rorAcc => Sys2Proof.Machine.execRorAcc s
  | .rorZpX n => Sys2Proof.Machine.execRorZpX n s
  | .rorAbsX nn => Sys2Proof.Machine.execRorAbsX nn s
  | .rti => Sys2Proof.Machine.execRti s
  | .rts => Sys2Proof.Machine.execRts s
  | .sbcImm n => Sys2Proof.Machine.execSbcImm n s
  | .sbcAbs nn => Sys2Proof.Machine.execSbcAbs nn s
  | .sbcZp n => Sys2Proof.Machine.execSbcZp n s
  | .sbcIndX n => Sys2Proof.Machine.execSbcIndX n s
  | .sbcIndY n => Sys2Proof.Machine.execSbcIndY n s
  | .sbcZpX n => Sys2Proof.Machine.execSbcZpX n s
  | .sbcAbsX nn => Sys2Proof.Machine.execSbcAbsX nn s
  | .sbcAbsY nn => Sys2Proof.Machine.execSbcAbsY nn s
  | .sec => Sys2Proof.Machine.execSec s
  | .sed => Sys2Proof.Machine.execSed s
  | .sei => Sys2Proof.Machine.execSei s
  | .staAbs nn => Sys2Proof.Machine.execStaAbs nn s
  | .staZp n => Sys2Proof.Machine.execStaZp n s
  | .staIndX n => Sys2Proof.Machine.execStaIndX n s
  | .staIndY n => Sys2Proof.Machine.execStaIndY n s
  | .staZpX n => Sys2Proof.Machine.execStaZpX n s
  | .staAbsX nn => Sys2Proof.Machine.execStaAbsX nn s
  | .staAbsY nn => Sys2Proof.Machine.execStaAbsY nn s
  | .stxAbs nn => Sys2Proof.Machine.execStxAbs nn s
  | .stxZp n => Sys2Proof.Machine.execStxZp n s
  | .stxZpY n => Sys2Proof.Machine.execStxZpY n s
  | .styAbs nn => Sys2Proof.Machine.execStyAbs nn s
  | .styZp n => Sys2Proof.Machine.execStyZp n s
  | .styZpX n => Sys2Proof.Machine.execStyZpX n s
  | .tax => Sys2Proof.Machine.execTax s
  | .tay => Sys2Proof.Machine.execTay s
  | .tsx => Sys2Proof.Machine.execTsx s
  | .txa => Sys2Proof.Machine.execTxa s
  | .txs => Sys2Proof.Machine.execTxs s
  | .tya => Sys2Proof.Machine.execTya s

end Sys2Proof.Machine
end

