-- ==== Sys2Proof/Machine/Step.lean ====
section
/-! DEFINITION. One step: one boundary of spec/60_exceptions.md R223, at which a reset, an NMI entry, an IRQ entry or one instruction
happens. -/

namespace Sys2Proof.Machine

/-- One step (R223). -/
def step (s : State) : Host.Outcome State Fault Refusal :=
  match event s with
  | .reset => takeReset (atBoundary s)
  | .resetInside => takeResetInside (atBoundary s)
  | .nmi => takeNmi (atBoundary s)
  | .irq => takeIrq (atBoundary s)
  | .instruction => andThen (fetch (atBoundary s)) fun r => exec r.1 r.2

/-- The state with the given instruction stored where the next step fetches (log 4). -/
def State.withFetchWord (s : State) (nbits w : Nat) : State := loadAtPc s nbits w

end Sys2Proof.Machine
end

