-- ==== Sys2Proof/Machine/Timing.lean ====
section
/-! DEFINITION. Cycle counts as a cost function beside the machine (spec/70_reset_and_hazards.md section 4): "no rule of this spec
depends on them" (R275), no state counts them (R32) and `step` does not use this file. The times of interrupt entry and reset are not
given (R280) and are not here. -/

namespace Sys2Proof.Machine

/-- The table row of an instruction (R90). -/
def rowOfInstr (i : Instr) : Option Row := rowOf true ((encode i).headD 0)

/-- Column C of R90: the cycles without the added ones (R279). -/
def baseCycles (i : Instr) : Nat := (rowOfInstr i).elim 0 Row.cycles

/-- The `+` of column C (R276, R277). -/
def hasPlus (i : Instr) : Bool := (rowOfInstr i).elim false Row.plus

/-- Two addresses lie in different pages (R5). -/
def pagesDiffer (a b : Addr) : Bool := highByte a != highByte b

/-- "Add 0 if branch not taken. Add 1 if taken within page. Add 2 if taken across pages" (R276), the target's page compared with that
of the next instruction (R278, log 25). -/
def branchExtra (taken : Bool) (n : Byte) (s : State) : Nat :=
  if taken then (if pagesDiffer (s.pc + 2 + sext16 n) (s.pc + 2) then 2 else 1) else 0

/-- "Add 1 if indexing across page boundary" (R277). -/
def indexExtra (base : Addr) (index : Byte) : Nat := if pagesDiffer (base + zext16 index) base then 1 else 0

/-- The added cycles of an instruction about to run in a state (R276, R277); an instruction without a `+` has none (R281). -/
def extraCycles (i : Instr) (s : State) : Nat :=
  match i with
  | .bcc n => branchExtra (!s.p.c) n s
  | .bcs n => branchExtra s.p.c n s
  | .beq n => branchExtra s.p.z n s
  | .bne n => branchExtra (!s.p.z) n s
  | .bmi n => branchExtra s.p.n n s
  | .bpl n => branchExtra (!s.p.n) n s
  | .bvc n => branchExtra (!s.p.v) n s
  | .bvs n => branchExtra s.p.v n s
  | .adcAbsX nn | .andAbsX nn | .cmpAbsX nn | .eorAbsX nn | .ldaAbsX nn | .ldyAbsX nn | .oraAbsX nn | .sbcAbsX nn =>
    indexExtra nn s.x
  | .adcAbsY nn | .andAbsY nn | .cmpAbsY nn | .eorAbsY nn | .ldaAbsY nn | .ldxAbsY nn | .oraAbsY nn | .sbcAbsY nn =>
    indexExtra nn s.y
  | .adcIndY n | .andIndY n | .cmpIndY n | .eorIndY n | .ldaIndY n | .oraIndY n | .sbcIndY n =>
    indexExtra (s.pointerValue (zext16 n)) s.y
  | _ => 0

/-- The cycles of an instruction about to run in a state (R276, R277, R279). -/
def cycles (i : Instr) (s : State) : Nat := baseCycles i + extraCycles i s

end Sys2Proof.Machine
end

