-- ==== Sys2Proof/Machine/Forms.lean ====
section
/-! DEFINITION. The spec's tables about instructions, as functions: which mnemonic takes which operand form with which opcode
(spec/30_encoding.md R89), which registers an instruction reads and writes (spec/10_state.md R11 to R14, R17, R36), which flags it
writes (R28), and where it stores (spec/20_memory.md R61). The machine does not use them: statements compare it with them. -/

namespace Sys2Proof.Machine

/-! ## Forms (R89) -/

/-- The opcode and the instruction of ADC in an operand form, none where R89 has a dash (R111). -/
def adcForm : Operand → Option (Byte × Instr)
  | .immediate n => some (0x69, .adcImm n)
  | .memory (.absolute nn) => some (0x6D, .adcAbs nn)
  | .memory (.zeroPage n) => some (0x65, .adcZp n)
  | .memory (.indX n) => some (0x61, .adcIndX n)
  | .memory (.indY n) => some (0x71, .adcIndY n)
  | .memory (.zeroPageX n) => some (0x75, .adcZpX n)
  | .memory (.absoluteX nn) => some (0x7D, .adcAbsX nn)
  | .memory (.absoluteY nn) => some (0x79, .adcAbsY nn)
  | _ => none

/-- The opcode and the instruction of SBC in an operand form, none where R89 has a dash (R113). -/
def sbcForm : Operand → Option (Byte × Instr)
  | .immediate n => some (0xE9, .sbcImm n)
  | .memory (.absolute nn) => some (0xED, .sbcAbs nn)
  | .memory (.zeroPage n) => some (0xE5, .sbcZp n)
  | .memory (.indX n) => some (0xE1, .sbcIndX n)
  | .memory (.indY n) => some (0xF1, .sbcIndY n)
  | .memory (.zeroPageX n) => some (0xF5, .sbcZpX n)
  | .memory (.absoluteX nn) => some (0xFD, .sbcAbsX nn)
  | .memory (.absoluteY nn) => some (0xF9, .sbcAbsY nn)
  | _ => none

/-- The opcode and the instruction of CMP in an operand form, none where R89 has a dash (R114). -/
def cmpForm : Operand → Option (Byte × Instr)
  | .immediate n => some (0xC9, .cmpImm n)
  | .memory (.absolute nn) => some (0xCD, .cmpAbs nn)
  | .memory (.zeroPage n) => some (0xC5, .cmpZp n)
  | .memory (.indX n) => some (0xC1, .cmpIndX n)
  | .memory (.indY n) => some (0xD1, .cmpIndY n)
  | .memory (.zeroPageX n) => some (0xD5, .cmpZpX n)
  | .memory (.absoluteX nn) => some (0xDD, .cmpAbsX nn)
  | .memory (.absoluteY nn) => some (0xD9, .cmpAbsY nn)
  | _ => none

/-- The opcode and the instruction of CPX in an operand form, none where R89 has a dash (R115). -/
def cpxForm : Operand → Option (Byte × Instr)
  | .immediate n => some (0xE0, .cpxImm n)
  | .memory (.absolute nn) => some (0xEC, .cpxAbs nn)
  | .memory (.zeroPage n) => some (0xE4, .cpxZp n)
  | _ => none

/-- The opcode and the instruction of CPY in an operand form, none where R89 has a dash (R116). -/
def cpyForm : Operand → Option (Byte × Instr)
  | .immediate n => some (0xC0, .cpyImm n)
  | .memory (.absolute nn) => some (0xCC, .cpyAbs nn)
  | .memory (.zeroPage n) => some (0xC4, .cpyZp n)
  | _ => none

/-- The opcode and the instruction of AND in an operand form, none where R89 has a dash (R121). -/
def andForm : Operand → Option (Byte × Instr)
  | .immediate n => some (0x29, .andImm n)
  | .memory (.absolute nn) => some (0x2D, .andAbs nn)
  | .memory (.zeroPage n) => some (0x25, .andZp n)
  | .memory (.indX n) => some (0x21, .andIndX n)
  | .memory (.indY n) => some (0x31, .andIndY n)
  | .memory (.zeroPageX n) => some (0x35, .andZpX n)
  | .memory (.absoluteX nn) => some (0x3D, .andAbsX nn)
  | .memory (.absoluteY nn) => some (0x39, .andAbsY nn)
  | _ => none

/-- The opcode and the instruction of EOR in an operand form, none where R89 has a dash (R122). -/
def eorForm : Operand → Option (Byte × Instr)
  | .immediate n => some (0x49, .eorImm n)
  | .memory (.absolute nn) => some (0x4D, .eorAbs nn)
  | .memory (.zeroPage n) => some (0x45, .eorZp n)
  | .memory (.indX n) => some (0x41, .eorIndX n)
  | .memory (.indY n) => some (0x51, .eorIndY n)
  | .memory (.zeroPageX n) => some (0x55, .eorZpX n)
  | .memory (.absoluteX nn) => some (0x5D, .eorAbsX nn)
  | .memory (.absoluteY nn) => some (0x59, .eorAbsY nn)
  | _ => none

/-- The opcode and the instruction of ORA in an operand form, none where R89 has a dash (R123). -/
def oraForm : Operand → Option (Byte × Instr)
  | .immediate n => some (0x09, .oraImm n)
  | .memory (.absolute nn) => some (0x0D, .oraAbs nn)
  | .memory (.zeroPage n) => some (0x05, .oraZp n)
  | .memory (.indX n) => some (0x01, .oraIndX n)
  | .memory (.indY n) => some (0x11, .oraIndY n)
  | .memory (.zeroPageX n) => some (0x15, .oraZpX n)
  | .memory (.absoluteX nn) => some (0x1D, .oraAbsX nn)
  | .memory (.absoluteY nn) => some (0x19, .oraAbsY nn)
  | _ => none

/-- The opcode and the instruction of BIT in an operand form, none where R89 has a dash (R124). -/
def bitForm : Operand → Option (Byte × Instr)
  | .memory (.absolute nn) => some (0x2C, .bitAbs nn)
  | .memory (.zeroPage n) => some (0x24, .bitZp n)
  | _ => none

/-- The opcode and the instruction of ASL in an operand form, none where R89 has a dash (R131). -/
def aslForm : Operand → Option (Byte × Instr)
  | .memory (.absolute nn) => some (0x0E, .aslAbs nn)
  | .memory (.zeroPage n) => some (0x06, .aslZp n)
  | .accumulator => some (0x0A, .aslAcc)
  | .memory (.zeroPageX n) => some (0x16, .aslZpX n)
  | .memory (.absoluteX nn) => some (0x1E, .aslAbsX nn)
  | _ => none

/-- The opcode and the instruction of LSR in an operand form, none where R89 has a dash (R132). -/
def lsrForm : Operand → Option (Byte × Instr)
  | .memory (.absolute nn) => some (0x4E, .lsrAbs nn)
  | .memory (.zeroPage n) => some (0x46, .lsrZp n)
  | .accumulator => some (0x4A, .lsrAcc)
  | .memory (.zeroPageX n) => some (0x56, .lsrZpX n)
  | .memory (.absoluteX nn) => some (0x5E, .lsrAbsX nn)
  | _ => none

/-- The opcode and the instruction of ROL in an operand form, none where R89 has a dash (R133). -/
def rolForm : Operand → Option (Byte × Instr)
  | .memory (.absolute nn) => some (0x2E, .rolAbs nn)
  | .memory (.zeroPage n) => some (0x26, .rolZp n)
  | .accumulator => some (0x2A, .rolAcc)
  | .memory (.zeroPageX n) => some (0x36, .rolZpX n)
  | .memory (.absoluteX nn) => some (0x3E, .rolAbsX nn)
  | _ => none

/-- The opcode and the instruction of ROR in an operand form, none where R89 has a dash (R134). -/
def rorForm : Operand → Option (Byte × Instr)
  | .memory (.absolute nn) => some (0x6E, .rorAbs nn)
  | .memory (.zeroPage n) => some (0x66, .rorZp n)
  | .accumulator => some (0x6A, .rorAcc)
  | .memory (.zeroPageX n) => some (0x76, .rorZpX n)
  | .memory (.absoluteX nn) => some (0x7E, .rorAbsX nn)
  | _ => none

/-- The opcode and the instruction of LDA in an operand form, none where R89 has a dash (R191). -/
def ldaForm : Operand → Option (Byte × Instr)
  | .immediate n => some (0xA9, .ldaImm n)
  | .memory (.absolute nn) => some (0xAD, .ldaAbs nn)
  | .memory (.zeroPage n) => some (0xA5, .ldaZp n)
  | .memory (.indX n) => some (0xA1, .ldaIndX n)
  | .memory (.indY n) => some (0xB1, .ldaIndY n)
  | .memory (.zeroPageX n) => some (0xB5, .ldaZpX n)
  | .memory (.absoluteX nn) => some (0xBD, .ldaAbsX nn)
  | .memory (.absoluteY nn) => some (0xB9, .ldaAbsY nn)
  | _ => none

/-- The opcode and the instruction of LDX in an operand form, none where R89 has a dash (R192). -/
def ldxForm : Operand → Option (Byte × Instr)
  | .immediate n => some (0xA2, .ldxImm n)
  | .memory (.absolute nn) => some (0xAE, .ldxAbs nn)
  | .memory (.zeroPage n) => some (0xA6, .ldxZp n)
  | .memory (.absoluteY nn) => some (0xBE, .ldxAbsY nn)
  | .memory (.zeroPageY n) => some (0xB6, .ldxZpY n)
  | _ => none

/-- The opcode and the instruction of LDY in an operand form, none where R89 has a dash (R193). -/
def ldyForm : Operand → Option (Byte × Instr)
  | .immediate n => some (0xA0, .ldyImm n)
  | .memory (.absolute nn) => some (0xAC, .ldyAbs nn)
  | .memory (.zeroPage n) => some (0xA4, .ldyZp n)
  | .memory (.zeroPageX n) => some (0xB4, .ldyZpX n)
  | .memory (.absoluteX nn) => some (0xBC, .ldyAbsX nn)
  | _ => none

/-- The opcode and the instruction of INC in a memory form, none where R89 has a dash (R184). -/
def incForm : Place → Option (Byte × Instr)
  | .absolute nn => some (0xEE, .incAbs nn)
  | .zeroPage n => some (0xE6, .incZp n)
  | .zeroPageX n => some (0xF6, .incZpX n)
  | .absoluteX nn => some (0xFE, .incAbsX nn)
  | _ => none

/-- The opcode and the instruction of DEC in a memory form, none where R89 has a dash (R181). -/
def decForm : Place → Option (Byte × Instr)
  | .absolute nn => some (0xCE, .decAbs nn)
  | .zeroPage n => some (0xC6, .decZp n)
  | .zeroPageX n => some (0xD6, .decZpX n)
  | .absoluteX nn => some (0xDE, .decAbsX nn)
  | _ => none

/-- The opcode and the instruction of STA in a memory form, none where R89 has a dash (R194). -/
def staForm : Place → Option (Byte × Instr)
  | .absolute nn => some (0x8D, .staAbs nn)
  | .zeroPage n => some (0x85, .staZp n)
  | .indX n => some (0x81, .staIndX n)
  | .indY n => some (0x91, .staIndY n)
  | .zeroPageX n => some (0x95, .staZpX n)
  | .absoluteX nn => some (0x9D, .staAbsX nn)
  | .absoluteY nn => some (0x99, .staAbsY nn)
  | _ => none

/-- The opcode and the instruction of STX in a memory form, none where R89 has a dash (R195). -/
def stxForm : Place → Option (Byte × Instr)
  | .absolute nn => some (0x8E, .stxAbs nn)
  | .zeroPage n => some (0x86, .stxZp n)
  | .zeroPageY n => some (0x96, .stxZpY n)
  | _ => none

/-- The opcode and the instruction of STY in a memory form, none where R89 has a dash (R196). -/
def styForm : Place → Option (Byte × Instr)
  | .absolute nn => some (0x8C, .styAbs nn)
  | .zeroPage n => some (0x84, .styZp n)
  | .zeroPageX n => some (0x94, .styZpX n)
  | _ => none

/-! ## Registers read and written (R11 to R14, R17, R36) -/

/-- The instructions that read A (R11). -/
def readsA : Instr → Bool
  | .adcImm _ | .adcAbs _ | .adcZp _ | .adcIndX _ | .adcIndY _ | .adcZpX _ | .adcAbsX _ | .adcAbsY _ | .andImm _ |
    .andAbs _ | .andZp _ | .andIndX _ | .andIndY _ | .andZpX _ | .andAbsX _ | .andAbsY _ | .aslAcc | .bitAbs _ |
    .bitZp _ | .cmpImm _ | .cmpAbs _ | .cmpZp _ | .cmpIndX _ | .cmpIndY _ | .cmpZpX _ | .cmpAbsX _ | .cmpAbsY _ |
    .eorImm _ | .eorAbs _ | .eorZp _ | .eorIndX _ | .eorIndY _ | .eorZpX _ | .eorAbsX _ | .eorAbsY _ | .lsrAcc |
    .oraImm _ | .oraAbs _ | .oraZp _ | .oraIndX _ | .oraIndY _ | .oraZpX _ | .oraAbsX _ | .oraAbsY _ | .pha |
    .rolAcc | .rorAcc | .sbcImm _ | .sbcAbs _ | .sbcZp _ | .sbcIndX _ | .sbcIndY _ | .sbcZpX _ | .sbcAbsX _ |
    .sbcAbsY _ | .staAbs _ | .staZp _ | .staIndX _ | .staIndY _ | .staZpX _ | .staAbsX _ | .staAbsY _ | .tax |
    .tay => true
  | _ => false

/-- The instructions that write A (R11). -/
def writesA : Instr → Bool
  | .adcImm _ | .adcAbs _ | .adcZp _ | .adcIndX _ | .adcIndY _ | .adcZpX _ | .adcAbsX _ | .adcAbsY _ | .andImm _ |
    .andAbs _ | .andZp _ | .andIndX _ | .andIndY _ | .andZpX _ | .andAbsX _ | .andAbsY _ | .aslAcc | .eorImm _ |
    .eorAbs _ | .eorZp _ | .eorIndX _ | .eorIndY _ | .eorZpX _ | .eorAbsX _ | .eorAbsY _ | .ldaImm _ | .ldaAbs _ |
    .ldaZp _ | .ldaIndX _ | .ldaIndY _ | .ldaZpX _ | .ldaAbsX _ | .ldaAbsY _ | .lsrAcc | .oraImm _ | .oraAbs _ |
    .oraZp _ | .oraIndX _ | .oraIndY _ | .oraZpX _ | .oraAbsX _ | .oraAbsY _ | .pla | .rolAcc | .rorAcc |
    .sbcImm _ | .sbcAbs _ | .sbcZp _ | .sbcIndX _ | .sbcIndY _ | .sbcZpX _ | .sbcAbsX _ | .sbcAbsY _ | .txa | .tya => true
  | _ => false

/-- The instructions that read X: those R12 names and every operand form that names X. -/
def readsX : Instr → Bool
  | .adcIndX _ | .adcZpX _ | .adcAbsX _ | .andIndX _ | .andZpX _ | .andAbsX _ | .aslZpX _ | .aslAbsX _ |
    .cmpIndX _ | .cmpZpX _ | .cmpAbsX _ | .cpxImm _ | .cpxAbs _ | .cpxZp _ | .decZpX _ | .decAbsX _ | .dex |
    .eorIndX _ | .eorZpX _ | .eorAbsX _ | .incZpX _ | .incAbsX _ | .inx | .ldaIndX _ | .ldaZpX _ | .ldaAbsX _ |
    .ldyZpX _ | .ldyAbsX _ | .lsrZpX _ | .lsrAbsX _ | .oraIndX _ | .oraZpX _ | .oraAbsX _ | .rolZpX _ | .rolAbsX _
    | .rorZpX _ | .rorAbsX _ | .sbcIndX _ | .sbcZpX _ | .sbcAbsX _ | .staIndX _ | .staZpX _ | .staAbsX _ |
    .stxAbs _ | .stxZp _ | .stxZpY _ | .styZpX _ | .txa | .txs => true
  | _ => false

/-- The instructions that write X (R12). -/
def writesX : Instr → Bool
  | .dex | .inx | .ldxImm _ | .ldxAbs _ | .ldxZp _ | .ldxAbsY _ | .ldxZpY _ | .tax | .tsx => true
  | _ => false

/-- The instructions that read Y: those R13 names and every operand form that names Y. -/
def readsY : Instr → Bool
  | .adcIndY _ | .adcAbsY _ | .andIndY _ | .andAbsY _ | .cmpIndY _ | .cmpAbsY _ | .cpyImm _ | .cpyAbs _ | .cpyZp _
    | .dey | .eorIndY _ | .eorAbsY _ | .iny | .ldaIndY _ | .ldaAbsY _ | .ldxAbsY _ | .ldxZpY _ | .oraIndY _ |
    .oraAbsY _ | .sbcIndY _ | .sbcAbsY _ | .staIndY _ | .staAbsY _ | .stxZpY _ | .styAbs _ | .styZp _ | .styZpX _
    | .tya => true
  | _ => false

/-- The instructions that write Y (R13). -/
def writesY : Instr → Bool
  | .dey | .iny | .ldyImm _ | .ldyAbs _ | .ldyZp _ | .ldyZpX _ | .ldyAbsX _ | .tay => true
  | _ => false

/-- The instructions that write S: every push and pull, and TXS (R14). -/
def writesS : Instr → Bool
  | .brk | .jsrAbs _ | .pha | .php | .pla | .plp | .rti | .rts | .txs => true
  | _ => false

/-- The instructions that read D: ADC and SBC use it, PHP and BRK push it (R23). -/
def readsD : Instr → Bool
  | .adcImm _ | .adcAbs _ | .adcZp _ | .adcIndX _ | .adcIndY _ | .adcZpX _ | .adcAbsX _ | .adcAbsY _ | .brk | .php
    | .sbcImm _ | .sbcAbs _ | .sbcZp _ | .sbcIndX _ | .sbcIndY _ | .sbcZpX _ | .sbcAbsX _ | .sbcAbsY _ => true
  | _ => false

/-- The instructions that write D (R23). -/
def writesD : Instr → Bool
  | .cld | .plp | .rti | .sed => true
  | _ => false

/-- The instructions that assign PC by a rule of their own (R17). -/
def transfersControl : Instr → Bool
  | .bcc _ | .bcs _ | .beq _ | .bne _ | .bmi _ | .bpl _ | .bvc _ | .bvs _ | .brk | .jmpAbs _ | .jmpInd _ |
    .jsrAbs _ | .rti | .rts => true
  | _ => false

/-! ## Flags written (R28) -/

/-- The flags an instruction writes, as R28 restores the card's table: `true` at the flags written. -/
def flagsWritten : Instr → Flags
  | .adcImm _ | .adcAbs _ | .adcZp _ | .adcIndX _ | .adcIndY _ | .adcZpX _ | .adcAbsX _ | .adcAbsY _ | .sbcImm _ |
    .sbcAbs _ | .sbcZp _ | .sbcIndX _ | .sbcIndY _ | .sbcZpX _ | .sbcAbsX _ | .sbcAbsY _ =>
    ⟨true, true, false, false, true, true⟩
  | .andImm _ | .andAbs _ | .andZp _ | .andIndX _ | .andIndY _ | .andZpX _ | .andAbsX _ | .andAbsY _ | .decAbs _ |
    .decZp _ | .decZpX _ | .decAbsX _ | .dex | .dey | .eorImm _ | .eorAbs _ | .eorZp _ | .eorIndX _ | .eorIndY _ |
    .eorZpX _ | .eorAbsX _ | .eorAbsY _ | .incAbs _ | .incZp _ | .incZpX _ | .incAbsX _ | .inx | .iny | .ldaImm _
    | .ldaAbs _ | .ldaZp _ | .ldaIndX _ | .ldaIndY _ | .ldaZpX _ | .ldaAbsX _ | .ldaAbsY _ | .ldxImm _ | .ldxAbs _
    | .ldxZp _ | .ldxAbsY _ | .ldxZpY _ | .ldyImm _ | .ldyAbs _ | .ldyZp _ | .ldyZpX _ | .ldyAbsX _ | .oraImm _ |
    .oraAbs _ | .oraZp _ | .oraIndX _ | .oraIndY _ | .oraZpX _ | .oraAbsX _ | .oraAbsY _ | .pla | .tax | .tay |
    .tsx | .txa | .tya =>
    ⟨true, false, false, false, true, false⟩
  | .aslAbs _ | .aslZp _ | .aslAcc | .aslZpX _ | .aslAbsX _ | .cmpImm _ | .cmpAbs _ | .cmpZp _ | .cmpIndX _ |
    .cmpIndY _ | .cmpZpX _ | .cmpAbsX _ | .cmpAbsY _ | .cpxImm _ | .cpxAbs _ | .cpxZp _ | .cpyImm _ | .cpyAbs _ |
    .cpyZp _ | .lsrAbs _ | .lsrZp _ | .lsrAcc | .lsrZpX _ | .lsrAbsX _ | .rolAbs _ | .rolZp _ | .rolAcc |
    .rolZpX _ | .rolAbsX _ | .rorAbs _ | .rorZp _ | .rorAcc | .rorZpX _ | .rorAbsX _ =>
    ⟨true, false, false, false, true, true⟩
  | .bitAbs _ | .bitZp _ =>
    ⟨true, true, false, false, true, false⟩
  | .brk | .cli | .sei =>
    ⟨false, false, false, true, false, false⟩
  | .clc | .sec =>
    ⟨false, false, false, false, false, true⟩
  | .cld | .sed =>
    ⟨false, false, true, false, false, false⟩
  | .clv =>
    ⟨false, true, false, false, false, false⟩
  | .plp | .rti =>
    ⟨true, true, true, true, true, true⟩
  | _ => ⟨false, false, false, false, false, false⟩

/-- A byte pushed from P, in the words of R27: `N*128 + V*64 + 32 + b*16 + D*8 + I*4 + Z*2 + C`, with bit 5 left open
(R27 gives it 1, or a draw). -/
def pushedView (f : Flags) (bit5 b : Bool) : Byte :=
  BitVec.ofNat 8 (128 * f.n.toNat + 64 * f.v.toNat + 32 * bit5.toNat + 16 * b.toNat + 8 * f.d.toNat + 4 * f.i.toNat +
    2 * f.z.toNat + f.c.toNat)

/-! ## Where an instruction stores (R61) -/

/-- `word(S - k, STACK_PAGE)`, the difference modulo 256: the address of the byte that the k-th push from here writes (R49, R61). -/
def stackSlot (s : State) (k : Nat) : Addr := wordOf (s.sp - BitVec.ofNat 8 k) s.sys.stackPage

/-- The addresses an instruction stores to: the effective address its meaning computes, or stack bytes (R61). -/
def storesTo (i : Instr) (s : State) : List Addr :=
  match i with
  | .staAbs nn => [Place.address (.absolute nn) s]
  | .staZp n => [Place.address (.zeroPage n) s]
  | .staIndX n => [Place.address (.indX n) s]
  | .staIndY n => [Place.address (.indY n) s]
  | .staZpX n => [Place.address (.zeroPageX n) s]
  | .staAbsX nn => [Place.address (.absoluteX nn) s]
  | .staAbsY nn => [Place.address (.absoluteY nn) s]
  | .stxAbs nn => [Place.address (.absolute nn) s]
  | .stxZp n => [Place.address (.zeroPage n) s]
  | .stxZpY n => [Place.address (.zeroPageY n) s]
  | .styAbs nn => [Place.address (.absolute nn) s]
  | .styZp n => [Place.address (.zeroPage n) s]
  | .styZpX n => [Place.address (.zeroPageX n) s]
  | .aslAbs nn => [Place.address (.absolute nn) s]
  | .aslZp n => [Place.address (.zeroPage n) s]
  | .aslZpX n => [Place.address (.zeroPageX n) s]
  | .aslAbsX nn => [Place.address (.absoluteX nn) s]
  | .lsrAbs nn => [Place.address (.absolute nn) s]
  | .lsrZp n => [Place.address (.zeroPage n) s]
  | .lsrZpX n => [Place.address (.zeroPageX n) s]
  | .lsrAbsX nn => [Place.address (.absoluteX nn) s]
  | .rolAbs nn => [Place.address (.absolute nn) s]
  | .rolZp n => [Place.address (.zeroPage n) s]
  | .rolZpX n => [Place.address (.zeroPageX n) s]
  | .rolAbsX nn => [Place.address (.absoluteX nn) s]
  | .rorAbs nn => [Place.address (.absolute nn) s]
  | .rorZp n => [Place.address (.zeroPage n) s]
  | .rorZpX n => [Place.address (.zeroPageX n) s]
  | .rorAbsX nn => [Place.address (.absoluteX nn) s]
  | .incAbs nn => [Place.address (.absolute nn) s]
  | .incZp n => [Place.address (.zeroPage n) s]
  | .incZpX n => [Place.address (.zeroPageX n) s]
  | .incAbsX nn => [Place.address (.absoluteX nn) s]
  | .decAbs nn => [Place.address (.absolute nn) s]
  | .decZp n => [Place.address (.zeroPage n) s]
  | .decZpX n => [Place.address (.zeroPageX n) s]
  | .decAbsX nn => [Place.address (.absoluteX nn) s]
  | .pha | .php => [stackSlot s 0]
  | .jsrAbs _ => [stackSlot s 0, stackSlot s 1]
  | .brk => [stackSlot s 0, stackSlot s 1, stackSlot s 2]
  | _ => []

/-! ## The accesses of an instruction (R61) -/

/-- An access without its value: `true` for a write, and the address. -/
def Access.shape : Access → Bool × Addr
  | .read a _ => (false, a)
  | .write a _ => (true, a)

/-- "ptr low, ptr high": the addresses of the two bytes of the pointer at `p` (R61, R85). -/
def pointerReads (p : Addr) (s : State) : List (Bool × Addr) :=
  match pointerHigh s.sys.ptrPageCross p with
  | none => []
  | some q => [(false, p), (false, q)]

/-- The pointer accesses of an operand form (R61). -/
def Place.pointerReads (p : Place) (s : State) : List (Bool × Addr) :=
  match p with
  | .indX n => Machine.pointerReads (zext16 (n + s.x)) s
  | .indY n => Machine.pointerReads (zext16 n) s
  | _ => []

/-- "[ptr low, ptr high,] read EA" (R61). -/
def loadAccesses (p : Place) (s : State) : List (Bool × Addr) := p.pointerReads s ++ [(false, p.address s)]

/-- "[ptr low, ptr high,] write EA" (R61). -/
def storeAccesses (p : Place) (s : State) : List (Bool × Addr) := p.pointerReads s ++ [(true, p.address s)]

/-- "read EA, write EA" (R61). -/
def modifyAccesses (p : Place) (s : State) : List (Bool × Addr) := [(false, p.address s), (true, p.address s)]

/-- `word(S + k, STACK_PAGE)`, the sum modulo 256: the address of the byte that the k-th pull from here reads (R49, R61). -/
def stackAbove (s : State) (k : Nat) : Addr := wordOf (s.sp + BitVec.ofNat 8 k) s.sys.stackPage

/-- The data accesses of an instruction after its fetch, in order: the table of R61. -/
def accesses (i : Instr) (s : State) : List (Bool × Addr) :=
  match i with
  | .adcAbs nn => loadAccesses (.absolute nn) s
  | .adcZp n => loadAccesses (.zeroPage n) s
  | .adcIndX n => loadAccesses (.indX n) s
  | .adcIndY n => loadAccesses (.indY n) s
  | .adcZpX n => loadAccesses (.zeroPageX n) s
  | .adcAbsX nn => loadAccesses (.absoluteX nn) s
  | .adcAbsY nn => loadAccesses (.absoluteY nn) s
  | .sbcAbs nn => loadAccesses (.absolute nn) s
  | .sbcZp n => loadAccesses (.zeroPage n) s
  | .sbcIndX n => loadAccesses (.indX n) s
  | .sbcIndY n => loadAccesses (.indY n) s
  | .sbcZpX n => loadAccesses (.zeroPageX n) s
  | .sbcAbsX nn => loadAccesses (.absoluteX nn) s
  | .sbcAbsY nn => loadAccesses (.absoluteY nn) s
  | .cmpAbs nn => loadAccesses (.absolute nn) s
  | .cmpZp n => loadAccesses (.zeroPage n) s
  | .cmpIndX n => loadAccesses (.indX n) s
  | .cmpIndY n => loadAccesses (.indY n) s
  | .cmpZpX n => loadAccesses (.zeroPageX n) s
  | .cmpAbsX nn => loadAccesses (.absoluteX nn) s
  | .cmpAbsY nn => loadAccesses (.absoluteY nn) s
  | .cpxAbs nn => loadAccesses (.absolute nn) s
  | .cpxZp n => loadAccesses (.zeroPage n) s
  | .cpyAbs nn => loadAccesses (.absolute nn) s
  | .cpyZp n => loadAccesses (.zeroPage n) s
  | .andAbs nn => loadAccesses (.absolute nn) s
  | .andZp n => loadAccesses (.zeroPage n) s
  | .andIndX n => loadAccesses (.indX n) s
  | .andIndY n => loadAccesses (.indY n) s
  | .andZpX n => loadAccesses (.zeroPageX n) s
  | .andAbsX nn => loadAccesses (.absoluteX nn) s
  | .andAbsY nn => loadAccesses (.absoluteY nn) s
  | .eorAbs nn => loadAccesses (.absolute nn) s
  | .eorZp n => loadAccesses (.zeroPage n) s
  | .eorIndX n => loadAccesses (.indX n) s
  | .eorIndY n => loadAccesses (.indY n) s
  | .eorZpX n => loadAccesses (.zeroPageX n) s
  | .eorAbsX nn => loadAccesses (.absoluteX nn) s
  | .eorAbsY nn => loadAccesses (.absoluteY nn) s
  | .oraAbs nn => loadAccesses (.absolute nn) s
  | .oraZp n => loadAccesses (.zeroPage n) s
  | .oraIndX n => loadAccesses (.indX n) s
  | .oraIndY n => loadAccesses (.indY n) s
  | .oraZpX n => loadAccesses (.zeroPageX n) s
  | .oraAbsX nn => loadAccesses (.absoluteX nn) s
  | .oraAbsY nn => loadAccesses (.absoluteY nn) s
  | .bitAbs nn => loadAccesses (.absolute nn) s
  | .bitZp n => loadAccesses (.zeroPage n) s
  | .ldaAbs nn => loadAccesses (.absolute nn) s
  | .ldaZp n => loadAccesses (.zeroPage n) s
  | .ldaIndX n => loadAccesses (.indX n) s
  | .ldaIndY n => loadAccesses (.indY n) s
  | .ldaZpX n => loadAccesses (.zeroPageX n) s
  | .ldaAbsX nn => loadAccesses (.absoluteX nn) s
  | .ldaAbsY nn => loadAccesses (.absoluteY nn) s
  | .ldxAbs nn => loadAccesses (.absolute nn) s
  | .ldxZp n => loadAccesses (.zeroPage n) s
  | .ldxAbsY nn => loadAccesses (.absoluteY nn) s
  | .ldxZpY n => loadAccesses (.zeroPageY n) s
  | .ldyAbs nn => loadAccesses (.absolute nn) s
  | .ldyZp n => loadAccesses (.zeroPage n) s
  | .ldyZpX n => loadAccesses (.zeroPageX n) s
  | .ldyAbsX nn => loadAccesses (.absoluteX nn) s
  | .staAbs nn => storeAccesses (.absolute nn) s
  | .staZp n => storeAccesses (.zeroPage n) s
  | .staIndX n => storeAccesses (.indX n) s
  | .staIndY n => storeAccesses (.indY n) s
  | .staZpX n => storeAccesses (.zeroPageX n) s
  | .staAbsX nn => storeAccesses (.absoluteX nn) s
  | .staAbsY nn => storeAccesses (.absoluteY nn) s
  | .stxAbs nn => storeAccesses (.absolute nn) s
  | .stxZp n => storeAccesses (.zeroPage n) s
  | .stxZpY n => storeAccesses (.zeroPageY n) s
  | .styAbs nn => storeAccesses (.absolute nn) s
  | .styZp n => storeAccesses (.zeroPage n) s
  | .styZpX n => storeAccesses (.zeroPageX n) s
  | .aslAbs nn => modifyAccesses (.absolute nn) s
  | .aslZp n => modifyAccesses (.zeroPage n) s
  | .aslZpX n => modifyAccesses (.zeroPageX n) s
  | .aslAbsX nn => modifyAccesses (.absoluteX nn) s
  | .lsrAbs nn => modifyAccesses (.absolute nn) s
  | .lsrZp n => modifyAccesses (.zeroPage n) s
  | .lsrZpX n => modifyAccesses (.zeroPageX n) s
  | .lsrAbsX nn => modifyAccesses (.absoluteX nn) s
  | .rolAbs nn => modifyAccesses (.absolute nn) s
  | .rolZp n => modifyAccesses (.zeroPage n) s
  | .rolZpX n => modifyAccesses (.zeroPageX n) s
  | .rolAbsX nn => modifyAccesses (.absoluteX nn) s
  | .rorAbs nn => modifyAccesses (.absolute nn) s
  | .rorZp n => modifyAccesses (.zeroPage n) s
  | .rorZpX n => modifyAccesses (.zeroPageX n) s
  | .rorAbsX nn => modifyAccesses (.absoluteX nn) s
  | .incAbs nn => modifyAccesses (.absolute nn) s
  | .incZp n => modifyAccesses (.zeroPage n) s
  | .incZpX n => modifyAccesses (.zeroPageX n) s
  | .incAbsX nn => modifyAccesses (.absoluteX nn) s
  | .decAbs nn => modifyAccesses (.absolute nn) s
  | .decZp n => modifyAccesses (.zeroPage n) s
  | .decZpX n => modifyAccesses (.zeroPageX n) s
  | .decAbsX nn => modifyAccesses (.absoluteX nn) s
  | .pha | .php => [(true, stackSlot s 0)]
  | .pla | .plp => [(false, stackAbove s 1)]
  | .jsrAbs _ => [(true, stackSlot s 0), (true, stackSlot s 1)]
  | .rts => [(false, stackAbove s 1), (false, stackAbove s 2)]
  | .brk =>
    [(true, stackSlot s 0), (true, stackSlot s 1), (true, stackSlot s 2), (false, 0xFFFE), (false, 0xFFFF)]
  | .rti => [(false, stackAbove s 1), (false, stackAbove s 2), (false, stackAbove s 3)]
  | .jmpInd nn => Machine.pointerReads nn s
  | _ => []

/-! ## Opcodes, lengths and cycles (R70, R90, R279) -/

/-- An instruction has the opcode, the length and the cycles of its line of the card's table: columns OP, B and C (R90). -/
def HasRow (i : Instr) (op : Byte) (len cyc : Nat) (plus : Bool) : Prop :=
  (encode i).head? = some op ∧ (encode i).length = len ∧ baseCycles i = cyc ∧ hasPlus i = plus

/-- The cycles of an instruction that reads its operand, with its `+` (R279). -/
def readCost : Operand → Nat × Bool
  | .immediate _ => (2, false)
  | .accumulator => (2, false)
  | .memory (.absolute _) => (4, false)
  | .memory (.absoluteX _) => (4, true)
  | .memory (.absoluteY _) => (4, true)
  | .memory (.zeroPage _) => (3, false)
  | .memory (.zeroPageX _) => (4, false)
  | .memory (.zeroPageY _) => (4, false)
  | .memory (.indX _) => (6, false)
  | .memory (.indY _) => (5, true)

/-- The cycles of STA, STX, STY (R194 to R196, R279, R281). -/
def storeCost : Place → Nat
  | .absolute _ => 4
  | .absoluteX _ | .absoluteY _ => 5
  | .zeroPage _ => 3
  | .zeroPageX _ | .zeroPageY _ => 4
  | .indX _ | .indY _ => 6

/-- The cycles of an instruction that modifies memory (R279, R281); no such instruction has another form. -/
def modifyCost : Place → Nat
  | .absolute _ => 6
  | .absoluteX _ => 7
  | .zeroPage _ => 5
  | .zeroPageX _ => 6
  | .absoluteY _ | .zeroPageY _ | .indX _ | .indY _ => 0

/-! ## Opcodes outside the card (R93) -/

/-- The 105 unlisted opcodes, row by row of R93. -/
def unlistedOpcodes : List Byte :=
  [0x02, 0x03, 0x04, 0x07, 0x0B, 0x0C, 0x0F, 0x12, 0x13, 0x14, 0x17, 0x1A, 0x1B, 0x1C, 0x1F] ++
  [0x22, 0x23, 0x27, 0x2B, 0x2F, 0x32, 0x33, 0x34, 0x37, 0x3A, 0x3B, 0x3C, 0x3F] ++
  [0x42, 0x43, 0x44, 0x47, 0x4B, 0x4F, 0x52, 0x53, 0x54, 0x57, 0x5A, 0x5B, 0x5C, 0x5F] ++
  [0x62, 0x63, 0x64, 0x67, 0x6B, 0x6F, 0x72, 0x73, 0x74, 0x77, 0x7A, 0x7B, 0x7C, 0x7F] ++
  [0x80, 0x82, 0x83, 0x87, 0x89, 0x8B, 0x8F, 0x92, 0x93, 0x97, 0x9B, 0x9C, 0x9E, 0x9F] ++
  [0xA3, 0xA7, 0xAB, 0xAF, 0xB2, 0xB3, 0xB7, 0xBB, 0xBF] ++
  [0xC2, 0xC3, 0xC7, 0xCB, 0xCF, 0xD2, 0xD3, 0xD4, 0xD7, 0xDA, 0xDB, 0xDC, 0xDF] ++
  [0xE2, 0xE3, 0xE7, 0xEB, 0xEF, 0xF2, 0xF3, 0xF4, 0xF7, 0xFA, 0xFB, 0xFC, 0xFF]

/-! ## Runs of instructions -/

/-- Runs instructions one after another, with nothing between them. -/
def execAll : List Instr → State → Exec
  | [], s => .next s
  | i :: rest, s => andThen (exec i s) fun t => execAll rest t

/-- The answer of an operation with its next state changed by `f`. -/
def mapNext (f : State → State) (o : Exec) : Exec := andThen o fun t => .next (f t)

end Sys2Proof.Machine
end

