-- ==== Sys2Proof/Safety.lean ====
section
/-! DEFINITION. What counts as a good state and a safe run, in the terms statements use. -/

namespace Sys2Proof.Machine

/-- What every step keeps: the memory's canonical form, and no held mask unless `I_LATENCY` = one_instruction (R229). -/
def State.wf (s : State) : Bool :=
  s.mem.wf && (s.sys.iLatency == .oneInstruction || s.heldMask == none)

/-- A run of k steps meets no refusal. DESIGN CHOICE (log 37): that a run ends after k steps is the model's definition. The hardware has
no end of a run and the spec leaves it to the model to define one through a parameter (R9, R163, D25); here it is the step bound k, and
a claim that uses it names k. `step` and `Reaches` have no end. -/
def SafeFor (k : Nat) (s : State) : Prop := ∃ t, Host.Core.run core k s = .next t

/-- What R263 and D19 ask of the platform: pages 0 and 1 are RAM, and the six vector bytes can be read. -/
def State.platformReady (s : State) : Prop :=
  (∀ a : Addr, a ≤ 0x01FF → s.kindAt a = .ram) ∧ ∀ a : Addr, 0xFFFA ≤ a → s.plain a

/-- The states a run passes through, however long it is: the processor "fetches and executes from reset on, for ever" (R9). -/
inductive Reaches : State → State → Prop where
  | refl (s : State) : Reaches s s
  | tail {s t u : State} (run : Reaches s t) (next : step t = .next u) : Reaches s u

end Sys2Proof.Machine
end

