-- ==== Sys2Proof/Certificates/Slice0/Obligations.lean ====
section
/-! DEFINITION. The statements for the provers. Each says what the machine does in the words of the spec's rules: a statement about
one instruction gives its whole next state, so that what it does not name is unchanged. `o.ready s`, `o.data s` and `o.fetched s` are
the operand forms of Machine/Operands.lean: `DATA` can be read, `DATA`, and the state with the reads on record (R61, R74);
`p.reachable s`, `p.address s` and `p.settled s` are the effective address likewise (R78 to R86). -/

open Sys2Proof Sys2Proof.Machine

/-! ## Arithmetic (spec/40_arithmetic.md) -/

/-- ADC with D = 0, in all its forms: R111's pseudocode with the opcodes, lengths and cycles of its rows. The signed reading of a
byte (log 31) and the choice of the four flags (log 15) are general knowledge by the rule's own marks. -/
def Obligations.AdcBinaryResult : Prop :=
  ∀ (o : Operand) (op : Byte) (i : Instr), adcForm o = some (op, i) →
    HasRow i op o.length (readCost o).1 (readCost o).2 ∧
    ∀ s : State, s.p.d = false → o.ready s = true →
      let t : Nat := s.a.toNat + (o.data s).toNat + s.p.c.toNat
      let r : Byte := BitVec.ofNat 8 (t % 256)
      let st : Int := s.a.toInt + (o.data s).toInt + s.p.c.toNat
      exec i s = .next { o.fetched s with
        a := r, pc := s.pc + BitVec.ofNat 16 o.length
        p := { s.p with n := r.getLsbD 7, v := decide (st < -128 ∨ 127 < st), z := decide (r = 0), c := decide (255 < t) } }

/-- SBC with D = 0, in all its forms: R113's pseudocode, where C = 1 means no borrow (spec/90_conflicts.md C1, C3). -/
def Obligations.SbcBinaryResult : Prop :=
  ∀ (o : Operand) (op : Byte) (i : Instr), sbcForm o = some (op, i) →
    HasRow i op o.length (readCost o).1 (readCost o).2 ∧
    ∀ s : State, s.p.d = false → o.ready s = true →
      let t : Int := (s.a.toNat : Int) - (o.data s).toNat - (1 - s.p.c.toNat)
      let r : Byte := BitVec.ofNat 8 (if t < 0 then t + 256 else t).toNat
      let st : Int := s.a.toInt - (o.data s).toInt - (1 - s.p.c.toNat)
      exec i s = .next { o.fetched s with
        a := r, pc := s.pc + BitVec.ofNat 16 o.length
        p := { s.p with n := r.getLsbD 7, v := decide (st < -128 ∨ 127 < st), z := decide (r = 0), c := decide (0 ≤ t) } }

/-- ADC and SBC with D = 1 of valid packed BCD operands: A and C by R112, while N, V and Z are draws (log 14), here some bits. -/
def Obligations.DecimalResultOfValidDigits : Prop :=
  (∀ (o : Operand) (op : Byte) (i : Instr) (s : State), adcForm o = some (op, i) →
    s.p.d = true → o.ready s = true →
    s.a.toNat / 16 ≤ 9 → s.a.toNat % 16 ≤ 9 → (o.data s).toNat / 16 ≤ 9 → (o.data s).toNat % 16 ≤ 9 →
    let t := (10 * (s.a.toNat / 16) + s.a.toNat % 16) + (10 * ((o.data s).toNat / 16) + (o.data s).toNat % 16) + s.p.c.toNat
    ∃ (n v z : Bool) (k : Nat), exec i s = .next { o.fetched s with
      a := BitVec.ofNat 8 (16 * (t % 100 / 10) + t % 10), pc := s.pc + BitVec.ofNat 16 o.length, draws := k
      p := { s.p with n := n, v := v, z := z, c := decide (99 < t) } }) ∧
  (∀ (o : Operand) (op : Byte) (i : Instr) (s : State), sbcForm o = some (op, i) →
    s.p.d = true → o.ready s = true →
    s.a.toNat / 16 ≤ 9 → s.a.toNat % 16 ≤ 9 → (o.data s).toNat / 16 ≤ 9 → (o.data s).toNat % 16 ≤ 9 →
    let t : Int := (10 * (s.a.toNat / 16) + s.a.toNat % 16 : Nat) - (10 * ((o.data s).toNat / 16) + (o.data s).toNat % 16 : Nat)
      - (1 - s.p.c.toNat)
    let u : Nat := (if t < 0 then t + 100 else t).toNat
    ∃ (n v z : Bool) (k : Nat), exec i s = .next { o.fetched s with
      a := BitVec.ofNat 8 (16 * (u / 10) + u % 10), pc := s.pc + BitVec.ofNat 16 o.length, draws := k
      p := { s.p with n := n, v := v, z := z, c := decide (0 ≤ t) } })

/-- ADC and SBC with D = 1 when a digit of A or of `DATA` is above 9: they complete with draws in A, N, V, Z and C and change
nothing else (R112, log 14). -/
def Obligations.DecimalResultOfOtherDigits : Prop :=
  ∀ (f : Operand → Option (Byte × Instr)), f ∈ [adcForm, sbcForm] →
  ∀ (o : Operand) (op : Byte) (i : Instr) (s : State), f o = some (op, i) → s.p.d = true → o.ready s = true →
    (9 < s.a.toNat / 16 ∨ 9 < s.a.toNat % 16 ∨ 9 < (o.data s).toNat / 16 ∨ 9 < (o.data s).toNat % 16) →
    ∃ (a : Byte) (n v z c : Bool) (k : Nat), exec i s = .next { o.fetched s with
      a := a, pc := s.pc + BitVec.ofNat 16 o.length, draws := k
      p := { s.p with n := n, v := v, z := z, c := c } }

/-- R113's derived law: binary SBC of `DATA` does what binary ADC of `255 - DATA` does, on every state with D = 0. -/
def Obligations.SbcIsAdcOfComplement : Prop :=
  ∀ (m : Byte) (s : State), s.p.d = false → exec (.sbcImm m) s = exec (.adcImm (BitVec.ofNat 8 (255 - m.toNat))) s

/-- The bit formulas for V that R111 and R113 derive. -/
def Obligations.OverflowFromSignBits : Prop :=
  ∀ (m : Byte) (s t : State), s.p.d = false →
    (exec (.adcImm m) s = .next t → t.p.v = ((s.a ^^^ t.a) &&& (m ^^^ t.a)).getLsbD 7) ∧
    (exec (.sbcImm m) s = .next t → (t.p.v = true ↔ s.a.getLsbD 7 ≠ m.getLsbD 7 ∧ t.a.getLsbD 7 ≠ s.a.getLsbD 7))

/-- CMP in all its forms, whatever C and D hold: R114. -/
def Obligations.CmpResult : Prop :=
  ∀ (o : Operand) (op : Byte) (i : Instr), cmpForm o = some (op, i) →
    HasRow i op o.length (readCost o).1 (readCost o).2 ∧
    ∀ s : State, o.ready s = true →
      exec i s = .next { o.fetched s with
        pc := s.pc + BitVec.ofNat 16 o.length
        p := { s.p with
          n := decide (128 ≤ (s.a.toNat + 256 - (o.data s).toNat) % 256), z := decide (s.a = o.data s)
          c := decide ((o.data s).toNat ≤ s.a.toNat) } }

/-- CPX and CPY in all their forms: R115 and R116, which rest on analogy with CMP by their own marks. -/
def Obligations.CpxCpyResult : Prop :=
  (∀ (o : Operand) (op : Byte) (i : Instr), cpxForm o = some (op, i) →
    HasRow i op o.length (readCost o).1 (readCost o).2 ∧
    ∀ s : State, o.ready s = true →
      exec i s = .next { o.fetched s with
        pc := s.pc + BitVec.ofNat 16 o.length
        p := { s.p with
          n := decide (128 ≤ (s.x.toNat + 256 - (o.data s).toNat) % 256), z := decide (s.x = o.data s)
          c := decide ((o.data s).toNat ≤ s.x.toNat) } }) ∧
  (∀ (o : Operand) (op : Byte) (i : Instr), cpyForm o = some (op, i) →
    HasRow i op o.length (readCost o).1 (readCost o).2 ∧
    ∀ s : State, o.ready s = true →
      exec i s = .next { o.fetched s with
        pc := s.pc + BitVec.ofNat 16 o.length
        p := { s.p with
          n := decide (128 ≤ (s.y.toNat + 256 - (o.data s).toNat) % 256), z := decide (s.y = o.data s)
          c := decide ((o.data s).toNat ≤ s.y.toNat) } })

/-- "Multi-byte arithmetic is built by chaining C" (R117): CLC, then ADC on the low bytes with the sum put away in RAM, then ADC on the
high bytes. The two result bytes are the 16-bit sum, C its carry and V its signed overflow. -/
def Obligations.SixteenBitAddition : Prop :=
  ∀ (u w : Addr) (k : Byte) (s : State), s.p.d = false → s.kindAt (zext16 k) = .ram →
    ∃ t, execAll [.clc, .ldaImm (lowByte u), .adcImm (lowByte w), .staZp k, .ldaImm (highByte u), .adcImm (highByte w)] s = .next t ∧
      wordOf (t.byteAt (zext16 k)) t.a = u + w ∧ t.p.c = decide (65535 < u.toNat + w.toNat) ∧
      t.p.v = decide (u.toInt + w.toInt < -32768 ∨ 32767 < u.toInt + w.toInt) ∧ t.pc = s.pc + 11

/-! ## Logic (spec/41_logic.md) -/

/-- AND, EOR and ORA in all their forms: R121 to R123, bit by bit as R120's truth tables have it (flags: log 15). -/
def Obligations.LogicResults : Prop :=
  ∀ (f : Operand → Option (Byte × Instr)) (table : Bool → Bool → Bool),
    (f, table) ∈ [(andForm, fun a m => a && m), (eorForm, fun a m => a != m), (oraForm, fun a m => a || m)] →
  ∀ (o : Operand) (op : Byte) (i : Instr), f o = some (op, i) →
    HasRow i op o.length (readCost o).1 (readCost o).2 ∧
    ∀ s : State, o.ready s = true → ∃ r : Byte,
      (∀ k, k < 8 → r.getLsbD k = table (s.a.getLsbD k) ((o.data s).getLsbD k)) ∧
      exec i s = .next { o.fetched s with
        a := r, pc := s.pc + BitVec.ofNat 16 o.length, p := { s.p with n := r.getLsbD 7, z := decide (r = 0) } }

/-- BIT in its two forms: N and V are bits 7 and 6 of `DATA` itself, Z is that of the AND, and A is unchanged (R124). -/
def Obligations.BitResult : Prop :=
  ∀ (o : Operand) (op : Byte) (i : Instr), bitForm o = some (op, i) →
    HasRow i op o.length (readCost o).1 (readCost o).2 ∧
    ∀ s : State, o.ready s = true →
      exec i s = .next { o.fetched s with
        pc := s.pc + BitVec.ofNat 16 o.length
        p := { s.p with n := (o.data s).getLsbD 7, v := (o.data s).getLsbD 6, z := decide (s.a &&& o.data s = 0) } }

/-! ## Shifts and rotates (spec/42_shift_rotate.md) -/

/-- ASL, LSR, ROL and ROR, accumulator and memory forms: R130 to R134. The bit shifted out of ASL and LSR (log 31) and the flags N and
Z (log 15) are general knowledge by the rules' own marks. -/
def Obligations.ShiftAndRotateResults : Prop :=
  ∀ (f : Operand → Option (Byte × Instr)) (result : Nat → Bool → Nat) (out : Byte → Bool),
    (f, result, out) ∈
      [(aslForm, fun v _ => 2 * v % 256, fun v => v.getLsbD 7), (lsrForm, fun v _ => v / 2, fun v => v.getLsbD 0),
       (rolForm, fun v c => (2 * v + c.toNat) % 256, fun v => v.getLsbD 7),
       (rorForm, fun v c => 128 * c.toNat + v / 2, fun v => v.getLsbD 0)] →
    (∀ (op : Byte) (i : Instr) (s : State), f .accumulator = some (op, i) →
      HasRow i op 1 2 false ∧
      let r : Byte := BitVec.ofNat 8 (result s.a.toNat s.p.c)
      exec i s = .next { s with
        a := r, pc := s.pc + 1, p := { s.p with n := r.getLsbD 7, z := decide (r = 0), c := out s.a } }) ∧
    (∀ (p : Place) (op : Byte) (i : Instr), f (.memory p) = some (op, i) →
      HasRow i op p.length (modifyCost p) false ∧
      ∀ s : State, s.readable (p.address s) = true → s.writable (p.address s) = true →
        let v : Byte := s.readValue (p.address s)
        let r : Byte := BitVec.ofNat 8 (result v.toNat s.p.c)
        exec i s = .next { (s.afterRead (p.address s)).afterWrite (p.address s) r with
          pc := s.pc + BitVec.ofNat 16 p.length, p := { s.p with n := r.getLsbD 7, z := decide (r = 0), c := out v } })

/-- "Nine ROLs restore v and C" (R133), nine RORs do too, and ROR undoes ROL: one ring of nine bits. -/
def Obligations.NineRotationsRestore : Prop :=
  ∀ s : State, ∃ t u w, execAll (List.replicate 9 .rolAcc) s = .next t ∧ execAll (List.replicate 9 .rorAcc) s = .next u ∧
    execAll [.rolAcc, .rorAcc] s = .next w ∧
    t.a = s.a ∧ t.p.c = s.p.c ∧ u.a = s.a ∧ u.p.c = s.p.c ∧ w.a = s.a ∧ w.p.c = s.p.c

/-! ## Control transfer (spec/43_branch_jump.md) -/

/-- The eight branches: R140 with the tests of R141 to R148, and the added cycles of R276. Where the target's page is that of the next
instruction and of the branch the branch is "within page", and where it is neither it is "across pages"; R278's choice between the
two is not needed. -/
def Obligations.BranchResults : Prop :=
  ∀ (f : Byte → Instr) (op : Byte) (test : Flags → Bool),
    (f, op, test) ∈
      [(Instr.bcc, (0x90 : Byte), fun p => !p.c), (.bcs, 0xB0, fun p => p.c), (.beq, 0xF0, fun p => p.z), (.bne, 0xD0, fun p => !p.z),
       (.bmi, 0x30, fun p => p.n), (.bpl, 0x10, fun p => !p.n), (.bvc, 0x50, fun p => !p.v), (.bvs, 0x70, fun p => p.v)] →
  ∀ (n : Byte) (s : State),
    HasRow (f n) op 2 2 true ∧
    let target : Addr := BitVec.ofInt 16 ((s.pc.toNat : Int) + 2 + n.toInt)
    exec (f n) s = .next { s with pc := if test s.p = true then target else s.pc + 2 } ∧
    (test s.p = false → cycles (f n) s = 2) ∧
    (test s.p = true → highByte target = highByte (s.pc + 2) → highByte target = highByte s.pc → cycles (f n) s = 3) ∧
    (test s.p = true → highByte target ≠ highByte (s.pc + 2) → highByte target ≠ highByte s.pc → cycles (f n) s = 4)

/-- JMP nn: R149. -/
def Obligations.JumpAbsolute : Prop :=
  ∀ (nn : Addr) (s : State), HasRow (.jmpAbs nn) 0x4C 3 3 false ∧ exec (.jmpAbs nn) s = .next { s with pc := nn }

/-- JMP (nn): R150. A pointer that would cross a page is refused, or read as the alternative in force has it (R85). -/
def Obligations.JumpIndirect : Prop :=
  ∀ (nn : Addr) (s : State),
    HasRow (.jmpInd nn) 0x6C 3 5 false ∧
    (∀ q : Addr, (q = if lowByte nn = 0xFF ∧ s.sys.ptrPageCross = .wrap then wordOf 0 (highByte nn) else nn + 1) →
      (lowByte nn = 0xFF → s.sys.ptrPageCross ≠ .refuse) → s.readable nn = true → s.readable q = true →
      let low := s.readValue nn
      let high := (s.afterRead nn).readValue q
      exec (.jmpInd nn) s = .next { (s.afterRead nn).afterRead q with pc := BitVec.ofNat 16 (low.toNat + 256 * high.toNat) }) ∧
    (lowByte nn = 0xFF → s.sys.ptrPageCross = .refuse → exec (.jmpInd nn) s = .refused (.pointerCrossesPage nn))

/-- JSR nn: R151. The word pushed is the address of the JSR's last byte, its high byte at `word(S, STACK_PAGE)` and its low byte
below. -/
def Obligations.JsrResult : Prop :=
  ∀ (nn : Addr) (s : State),
    HasRow (.jsrAbs nn) 0x20 3 6 false ∧
    (s.writable (stackSlot s 0) = true → s.writable (stackSlot s 1) = true →
      let w : Nat := (s.pc.toNat + 2) % 65536
      exec (.jsrAbs nn) s = .next
        { (s.afterWrite (stackSlot s 0) (BitVec.ofNat 8 (w / 256))).afterWrite (stackSlot s 1) (BitVec.ofNat 8 (w % 256)) with
          sp := s.sp - 2, pc := nn })

/-- RTS: R152. -/
def Obligations.RtsResult : Prop :=
  ∀ s : State,
    HasRow .rts 0x60 1 6 false ∧
    (s.readable (stackAbove s 1) = true → s.readable (stackAbove s 2) = true →
      let s1 := s.afterRead (stackAbove s 1)
      let l := s.readValue (stackAbove s 1)
      let h := s1.readValue (stackAbove s 2)
      exec .rts s = .next { s1.afterRead (stackAbove s 2) with
        sp := s.sp + 2, pc := BitVec.ofNat 16 ((l.toNat + 256 * h.toNat + 1) % 65536) })

/-- JSR and RTS fit each other (R151 to R153): whatever the subroutine did in between, if it left S and the two stack bytes as JSR left
them, RTS goes to the instruction after the JSR, with the S from before it. -/
def Obligations.RtsReturnsAfterJsr : Prop :=
  ∀ (nn : Addr) (s : State), s.kindAt (stackSlot s 0) = .ram → s.kindAt (stackSlot s 1) = .ram →
    s.cellOf (stackSlot s 0) ≠ s.cellOf (stackSlot s 1) →
    ∃ t, exec (.jsrAbs nn) s = .next t ∧ t.pc = nn ∧
      ∀ u : State, u.sys = t.sys → u.sp = t.sp →
        u.byteAt (stackSlot s 0) = t.byteAt (stackSlot s 0) → u.byteAt (stackSlot s 1) = t.byteAt (stackSlot s 1) →
        ∃ v, exec .rts u = .next v ∧ v.pc = s.pc + 3 ∧ v.sp = s.sp ∧ v.p = u.p ∧ v.a = u.a ∧ v.x = u.x ∧ v.y = u.y ∧ v.mem = u.mem

/-! ## System instructions (spec/44_system.md) -/

/-- BRK: R160, whatever I is. Bit 5 of the pushed byte is 1, or a draw under R27's variant (log 13); bit 4 is 1. That BRK sets I is the
spec's decision D7 (log 27). -/
def Obligations.BrkResult : Prop :=
  ∀ s : State,
    HasRow .brk 0x00 1 7 false ∧
    (s.writable (stackSlot s 0) = true → s.writable (stackSlot s 1) = true → s.writable (stackSlot s 2) = true →
      s.readable 0xFFFE = true → s.readable 0xFFFF = true →
      ∃ (b5 : Bool) (k : Nat), (s.sys.pushBits = .fixed → b5 = true ∧ k = s.draws) ∧
        let w : Nat := (s.pc.toNat + 2) % 65536
        let s1 := s.afterWrite (stackSlot s 0) (BitVec.ofNat 8 (w / 256))
        let s2 := s1.afterWrite (stackSlot s 1) (BitVec.ofNat 8 (w % 256))
        let s3 := s2.afterWrite (stackSlot s 2) (pushedView s.p b5 true)
        let s4 := s3.afterRead 0xFFFE
        exec .brk s = .next { s4.afterRead 0xFFFF with
          sp := s.sp - 3, p := { s.p with i := true }, draws := k
          pc := BitVec.ofNat 16 ((s3.readValue 0xFFFE).toNat + 256 * (s4.readValue 0xFFFF).toNat) })

/-- RTI: R161. "Because RTI can write I = 0, an IRQ whose line is still low is taken right after it": where nothing outranks the IRQ,
the next boundary's event is the IRQ exactly when the pulled I is 0. -/
def Obligations.RtiResult : Prop :=
  ∀ s : State,
    HasRow .rti 0x40 1 6 false ∧
    (s.readable (stackAbove s 1) = true → s.readable (stackAbove s 2) = true → s.readable (stackAbove s 3) = true →
      let p := s.readValue (stackAbove s 1)
      let s1 := s.afterRead (stackAbove s 1)
      let l := s1.readValue (stackAbove s 2)
      let s2 := s1.afterRead (stackAbove s 2)
      let h := s2.readValue (stackAbove s 3)
      exec .rti s = .next { s2.afterRead (stackAbove s 3) with
        sp := s.sp + 3, pc := BitVec.ofNat 16 (l.toNat + 256 * h.toNat)
        p := { n := p.getLsbD 7, v := p.getLsbD 6, d := p.getLsbD 3, i := p.getLsbD 2, z := p.getLsbD 1, c := p.getLsbD 0 } }) ∧
    (∀ t, exec .rti s = .next t → s.now = ⟨.none, false, true⟩ → s.nmiPending = false → s.heldMask = none →
      (event t = .irq ↔ (s.readValue (stackAbove s 1)).getLsbD 2 = false))

/-- NOP: R162. -/
def Obligations.NopResult : Prop :=
  ∀ s : State, HasRow .nop 0xEA 1 2 false ∧ exec .nop s = .next { s with pc := s.pc + 1 }

/-! ## Flag instructions (spec/45_flag_ops.md) -/

/-- CLC, CLD, CLV, SEC and SED: R170 to R172 and R174 to R176. -/
def Obligations.FlagInstructionResults : Prop :=
  ∀ s : State,
    (HasRow .clc 0x18 1 2 false ∧ exec .clc s = .next { s with pc := s.pc + 1, p := { s.p with c := false } }) ∧
    (HasRow .cld 0xD8 1 2 false ∧ exec .cld s = .next { s with pc := s.pc + 1, p := { s.p with d := false } }) ∧
    (HasRow .clv 0xB8 1 2 false ∧ exec .clv s = .next { s with pc := s.pc + 1, p := { s.p with v := false } }) ∧
    (HasRow .sec 0x38 1 2 false ∧ exec .sec s = .next { s with pc := s.pc + 1, p := { s.p with c := true } }) ∧
    (HasRow .sed 0xF8 1 2 false ∧ exec .sed s = .next { s with pc := s.pc + 1, p := { s.p with d := true } })

/-- CLI and SEI: R173 and R177. Under `I_LATENCY` = one_instruction (R229, log 17) the I from before them is held for the next
boundary, in the model's own field. -/
def Obligations.CliSeiResult : Prop :=
  ∀ s : State,
    let held := if s.sys.iLatency = .oneInstruction then some s.p.i else s.heldMask
    (HasRow .cli 0x58 1 2 false ∧
      exec .cli s = .next { s with pc := s.pc + 1, p := { s.p with i := false }, heldMask := held }) ∧
    (HasRow .sei 0x78 1 2 false ∧
      exec .sei s = .next { s with pc := s.pc + 1, p := { s.p with i := true }, heldMask := held })

/-! ## Increment and decrement (spec/46_incdec.md) -/

/-- INC and DEC in all their forms: R181 and R184. -/
def Obligations.IncDecMemory : Prop :=
  ∀ (f : Place → Option (Byte × Instr)) (result : Nat → Nat),
    (f, result) ∈ [(incForm, fun v => (v + 1) % 256), (decForm, fun v => (v + 255) % 256)] →
  ∀ (p : Place) (op : Byte) (i : Instr), f p = some (op, i) →
    HasRow i op p.length (modifyCost p) false ∧
    ∀ s : State, s.readable (p.address s) = true → s.writable (p.address s) = true →
      let r : Byte := BitVec.ofNat 8 (result (s.readValue (p.address s)).toNat)
      exec i s = .next { (s.afterRead (p.address s)).afterWrite (p.address s) r with
        pc := s.pc + BitVec.ofNat 16 p.length, p := { s.p with n := r.getLsbD 7, z := decide (r = 0) } }

/-- INX, INY, DEX and DEY: R182, R183, R185, R186. -/
def Obligations.IncDecRegisters : Prop :=
  ∀ s : State,
    (HasRow .dex 0xCA 1 2 false ∧ ∀ r : Byte, r.toNat = (s.x.toNat + 255) % 256 →
      exec .dex s = .next { s with x := r, pc := s.pc + 1, p := { s.p with n := r.getLsbD 7, z := decide (r = 0) } }) ∧
    (HasRow .dey 0x88 1 2 false ∧ ∀ r : Byte, r.toNat = (s.y.toNat + 255) % 256 →
      exec .dey s = .next { s with y := r, pc := s.pc + 1, p := { s.p with n := r.getLsbD 7, z := decide (r = 0) } }) ∧
    (HasRow .inx 0xE8 1 2 false ∧ ∀ r : Byte, r.toNat = (s.x.toNat + 1) % 256 →
      exec .inx s = .next { s with x := r, pc := s.pc + 1, p := { s.p with n := r.getLsbD 7, z := decide (r = 0) } }) ∧
    (HasRow .iny 0xC8 1 2 false ∧ ∀ r : Byte, r.toNat = (s.y.toNat + 1) % 256 →
      exec .iny s = .next { s with y := r, pc := s.pc + 1, p := { s.p with n := r.getLsbD 7, z := decide (r = 0) } })

/-! ## Loads and stores (spec/47_load_store.md) -/

/-- LDA in all its forms: R191. -/
def Obligations.LdaResult : Prop :=
  ∀ (o : Operand) (op : Byte) (i : Instr), ldaForm o = some (op, i) →
    HasRow i op o.length (readCost o).1 (readCost o).2 ∧
    ∀ s : State, o.ready s = true →
      exec i s = .next { o.fetched s with
        a := o.data s, pc := s.pc + BitVec.ofNat 16 o.length
        p := { s.p with n := (o.data s).getLsbD 7, z := decide (o.data s = 0) } }

/-- LDX in all its forms: R192. -/
def Obligations.LdxResult : Prop :=
  ∀ (o : Operand) (op : Byte) (i : Instr), ldxForm o = some (op, i) →
    HasRow i op o.length (readCost o).1 (readCost o).2 ∧
    ∀ s : State, o.ready s = true →
      exec i s = .next { o.fetched s with
        x := o.data s, pc := s.pc + BitVec.ofNat 16 o.length
        p := { s.p with n := (o.data s).getLsbD 7, z := decide (o.data s = 0) } }

/-- LDY in all its forms: R193. -/
def Obligations.LdyResult : Prop :=
  ∀ (o : Operand) (op : Byte) (i : Instr), ldyForm o = some (op, i) →
    HasRow i op o.length (readCost o).1 (readCost o).2 ∧
    ∀ s : State, o.ready s = true →
      exec i s = .next { o.fetched s with
        y := o.data s, pc := s.pc + BitVec.ofNat 16 o.length
        p := { s.p with n := (o.data s).getLsbD 7, z := decide (o.data s = 0) } }

/-- STA, STX and STY in all their forms: R194 to R196. The location is not read first, no flag is written, and a store to ROM or to
nothing that `MEM` does not define is refused (R46). -/
def Obligations.StoreResults : Prop :=
  ∀ (f : Place → Option (Byte × Instr)) (reg : State → Byte),
    (f, reg) ∈ [(staForm, fun s => s.a), (stxForm, fun s => s.x), (styForm, fun s => s.y)] →
  ∀ (p : Place) (op : Byte) (i : Instr), f p = some (op, i) →
    HasRow i op p.length (storeCost p) false ∧
    ∀ s : State, p.reachable s = true →
      (s.writable (p.address s) = true → exec i s =
        .next { (p.settled s).afterWrite (p.address s) (reg s) with pc := s.pc + BitVec.ofNat 16 p.length }) ∧
      (s.kindAt (p.address s) = .rom false → exec i s = .refused (.romWrite (p.address s))) ∧
      (s.kindAt (p.address s) = .nothing → exec i s = .refused (.nothingAt (p.address s)))

/-! ## Stack and transfers (spec/48_stack_transfer.md) -/

/-- PHA: R201, and where the stack is: `$0100 + S` with the spec's `STACK_PAGE` (R49). -/
def Obligations.PhaResult : Prop :=
  ∀ s : State,
    HasRow .pha 0x48 1 3 false ∧
    (s.writable (stackSlot s 0) = true →
      exec .pha s = .next { s.afterWrite (stackSlot s 0) s.a with sp := s.sp - 1, pc := s.pc + 1 }) ∧
    (s.sys.stackPage = 0x01 → (stackSlot s 0).toNat = 256 + s.sp.toNat)

/-- PHP: R202. Bits 5 and 4 of the pushed byte are 1, or draws under R27's variant (log 13). -/
def Obligations.PhpResult : Prop :=
  ∀ s : State,
    HasRow .php 0x08 1 3 false ∧
    (s.writable (stackSlot s 0) = true →
      ∃ (b5 b4 : Bool) (k : Nat), (s.sys.pushBits = .fixed → b5 = true ∧ b4 = true ∧ k = s.draws) ∧
        exec .php s = .next
          { s.afterWrite (stackSlot s 0) (pushedView s.p b5 b4) with sp := s.sp - 1, pc := s.pc + 1, draws := k })

/-- PLA: R203. -/
def Obligations.PlaResult : Prop :=
  ∀ s : State,
    HasRow .pla 0x68 1 4 false ∧
    (s.readable (stackAbove s 1) = true →
      let v := s.readValue (stackAbove s 1)
      exec .pla s = .next { s.afterRead (stackAbove s 1) with
        a := v, sp := s.sp + 1, pc := s.pc + 1, p := { s.p with n := v.getLsbD 7, z := decide (v = 0) } })

/-- PLP: R204. Under `I_LATENCY` = one_instruction (R229, log 17) the I from before it is held for the next boundary. -/
def Obligations.PlpResult : Prop :=
  ∀ s : State,
    HasRow .plp 0x28 1 4 false ∧
    (s.readable (stackAbove s 1) = true →
      let p := s.readValue (stackAbove s 1)
      exec .plp s = .next { s.afterRead (stackAbove s 1) with
        sp := s.sp + 1, pc := s.pc + 1
        heldMask := if s.sys.iLatency = .oneInstruction then some s.p.i else s.heldMask
        p := { n := p.getLsbD 7, v := p.getLsbD 6, d := p.getLsbD 3, i := p.getLsbD 2, z := p.getLsbD 1, c := p.getLsbD 0 } })

/-- The six transfers: R205 to R210. That TXS leaves N and Z alone and the others write them is general knowledge by the marks of R28
and R209 (log 15). -/
def Obligations.TransferResults : Prop :=
  ∀ s : State,
    (HasRow .tax 0xAA 1 2 false ∧
      exec .tax s = .next { s with x := s.a, pc := s.pc + 1, p := { s.p with n := s.a.getLsbD 7, z := decide (s.a = 0) } }) ∧
    (HasRow .tay 0xA8 1 2 false ∧
      exec .tay s = .next { s with y := s.a, pc := s.pc + 1, p := { s.p with n := s.a.getLsbD 7, z := decide (s.a = 0) } }) ∧
    (HasRow .tsx 0xBA 1 2 false ∧
      exec .tsx s = .next { s with x := s.sp, pc := s.pc + 1, p := { s.p with n := s.sp.getLsbD 7, z := decide (s.sp = 0) } }) ∧
    (HasRow .txa 0x8A 1 2 false ∧
      exec .txa s = .next { s with a := s.x, pc := s.pc + 1, p := { s.p with n := s.x.getLsbD 7, z := decide (s.x = 0) } }) ∧
    (HasRow .tya 0x98 1 2 false ∧
      exec .tya s = .next { s with a := s.y, pc := s.pc + 1, p := { s.p with n := s.y.getLsbD 7, z := decide (s.y = 0) } }) ∧
    (HasRow .txs 0x9A 1 2 false ∧ exec .txs s = .next { s with sp := s.x, pc := s.pc + 1 })

/-- "PHP then PLP leaves the six flags and S as they were" (R204), also under R27's variant with draws, and so do PHA and PLA with A
(R50, R51). -/
def Obligations.PullUndoesPush : Prop :=
  ∀ s : State, s.kindAt (stackSlot s 0) = .ram →
    (∃ t, execAll [.php, .plp] s = .next t ∧ t.p = s.p ∧ t.sp = s.sp ∧ t.pc = s.pc + 2) ∧
    (∃ t, execAll [.pha, .pla] s = .next t ∧ t.a = s.a ∧ t.sp = s.sp ∧ t.pc = s.pc + 2)

/-! ## What instructions leave alone -/

/-- The frame of memory, for all 151 instructions: every address reads as before but those whose cell is a cell the instruction stores
to. `storesTo` gives the effective address of a store or modify form, computed as its meaning computes it, the stack bytes of a push, and
nothing for a form that stores nothing (R61). Without a mirror in `MEM` the cell of an address is the address itself (R46, R49). That an
access to a device changes no cell is the model's choice (log 7): R46 leaves the effects of a device to `MEM`. -/
def Obligations.MemoryFrame : Prop :=
  (∀ (i : Instr) (s t : State), exec i s = .next t →
    ∀ a : Addr, (∀ b ∈ storesTo i s, s.cellOf a ≠ s.cellOf b) → t.byteAt a = s.byteAt a) ∧
  (∀ s : State, (∀ r ∈ s.sys.map, ∃ k, r.kind = .plain k) → ∀ a : Addr, s.cellOf a = a)

/-- The frame of A, X, Y and S, for all 151 instructions: only those that R11 to R14 say write a register change it. -/
def Obligations.RegisterFrame : Prop :=
  ∀ (i : Instr) (s t : State), exec i s = .next t →
    (writesA i = false → t.a = s.a) ∧ (writesX i = false → t.x = s.x) ∧
    (writesY i = false → t.y = s.y) ∧ (writesS i = false → t.sp = s.sp)

/-- The frame of the flags, for all 151 instructions: only the flags of R28's row change, and none for an instruction not in the
table. The table is restored by the spec, mostly from general knowledge (log 15). -/
def Obligations.FlagFrame : Prop :=
  ∀ (i : Instr) (s t : State), exec i s = .next t →
    ((flagsWritten i).n = false → t.p.n = s.p.n) ∧ ((flagsWritten i).v = false → t.p.v = s.p.v) ∧
    ((flagsWritten i).d = false → t.p.d = s.p.d) ∧ ((flagsWritten i).i = false → t.p.i = s.p.i) ∧
    ((flagsWritten i).z = false → t.p.z = s.p.z) ∧ ((flagsWritten i).c = false → t.p.c = s.p.c)

/-- `PC = pc_next` after every instruction that does not transfer control (R17), modulo 65536 (R18). -/
def Obligations.PcAdvancesByLength : Prop :=
  ∀ (i : Instr) (s t : State), exec i s = .next t → transfersControl i = false →
    t.pc = BitVec.ofNat 16 ((s.pc.toNat + (encode i).length) % 65536)

/-- The frame of what is not a register: no instruction touches the parameters (R32), the coming inputs (R222) or the NMI latch
(R225); only CLI, SEI and PLP hold an old I, and only under `I_LATENCY` = one_instruction (R229); the record only grows; draws are made
only by ADC and SBC in decimal mode and by PHP and BRK under R27's variant. -/
def Obligations.OtherStateFrame : Prop :=
  ∀ (i : Instr) (s t : State), exec i s = .next t →
    t.sys = s.sys ∧ t.inputs = s.inputs ∧ t.nmiPending = s.nmiPending ∧
    (s.sys.iLatency = .none ∨ i ∉ [.cli, .sei, .plp] → t.heldMask = s.heldMask) ∧
    s.bus <:+ t.bus ∧ s.draws ≤ t.draws ∧
    (readsD i = false ∨ (s.p.d = false ∧ s.sys.pushBits = .fixed) → t.draws = s.draws)

/-- An instruction that R11 to R14 do not say reads a register behaves alike whatever the register holds, and gives it back unchanged
if it does not write it; and "When D=1, only ADC and SBC use decimal (BCD) arithmetic" (R23). -/
def Obligations.ReadsOnlyNamedRegisters : Prop :=
  ∀ (i : Instr) (s : State) (v : Byte) (b : Bool),
    (readsA i = false → exec i { s with a := v } =
      mapNext (fun t => if writesA i then t else { t with a := v }) (exec i s)) ∧
    (readsX i = false → exec i { s with x := v } =
      mapNext (fun t => if writesX i then t else { t with x := v }) (exec i s)) ∧
    (readsY i = false → exec i { s with y := v } =
      mapNext (fun t => if writesY i then t else { t with y := v }) (exec i s)) ∧
    (writesS i = false → i ≠ .tsx → exec i { s with sp := v } = mapNext (fun t => { t with sp := v }) (exec i s)) ∧
    (readsD i = false → exec i { s with p := { s.p with d := b } } =
      mapNext (fun t => if writesD i then t else { t with p := { t.p with d := b } }) (exec i s))

/-! ## Memory and addresses (spec/20_memory.md, spec/30_encoding.md section 3) -/

/-- The effective addresses in plain memory, in exact arithmetic: R78 to R84 and R86, with the wraparounds of D3 and D26 (log 16). The two
indirect forms are given where their pointer crosses no page. -/
def Obligations.EffectiveAddresses : Prop :=
  ∀ (s : State) (n : Byte) (nn : Addr),
    Place.address (.absolute nn) s = nn ∧
    Place.address (.absoluteX nn) s = BitVec.ofNat 16 ((nn.toNat + s.x.toNat) % 65536) ∧
    Place.address (.absoluteY nn) s = BitVec.ofNat 16 ((nn.toNat + s.y.toNat) % 65536) ∧
    Place.address (.zeroPage n) s = BitVec.ofNat 16 n.toNat ∧
    Place.address (.zeroPageX n) s = BitVec.ofNat 16 ((n.toNat + s.x.toNat) % 256) ∧
    Place.address (.zeroPageY n) s = BitVec.ofNat 16 ((n.toNat + s.y.toNat) % 256) ∧
    (∀ p : Addr, p.toNat = (n.toNat + s.x.toNat) % 256 → p ≠ 0xFF → s.plain p = true → s.plain (p + 1) = true →
      Place.reachable (.indX n) s = true ∧
      Place.address (.indX n) s = BitVec.ofNat 16 ((s.byteAt p).toNat + 256 * (s.byteAt (p + 1)).toNat)) ∧
    (∀ p : Addr, p.toNat = n.toNat → p ≠ 0xFF → s.plain p = true → s.plain (p + 1) = true →
      Place.reachable (.indY n) s = true ∧
      Place.address (.indY n) s =
        BitVec.ofNat 16 (((s.byteAt p).toNat + 256 * (s.byteAt (p + 1)).toNat + s.y.toNat) % 65536))

/-- A pointer of the forms `(n,X)` and `(n),Y` at $00FF (R85): every instruction with the form is refused under the spec's value of
`PTR_PAGE_CROSS`, and under the two alternatives the high byte comes from $0000 or from $0100. -/
def Obligations.PointerAcrossPage : Prop :=
  ∀ (s : State) (n : Byte) (p : Place),
    (p = .indX n ∧ (n.toNat + s.x.toNat) % 256 = 255) ∨ (p = .indY n ∧ n = 0xFF) →
    (s.sys.ptrPageCross = .refuse →
      (∀ f ∈ [adcForm, sbcForm, cmpForm, andForm, eorForm, oraForm, ldaForm], ∃ op i,
        f (.memory p) = some (op, i) ∧ exec i s = .refused (.pointerCrossesPage 0x00FF)) ∧
      ∃ op i, staForm p = some (op, i) ∧ exec i s = .refused (.pointerCrossesPage 0x00FF)) ∧
    (∀ high : Addr, (s.sys.ptrPageCross = .wrap ∧ high = 0x0000) ∨ (s.sys.ptrPageCross = .next ∧ high = 0x0100) →
      s.plain 0x00FF = true → s.plain high = true →
      p.reachable s = true ∧
      p.address s = wordOf (s.byteAt 0x00FF) (s.byteAt high) + (if p = .indY n then zext16 s.y else 0))

/-- Plain memory (R46): a read returns the byte the cell holds and changes nothing but the record, RAM holds the byte written last, and
a write leaves every other cell alone; where nothing answers the access is refused, and so is a write to ROM that `MEM` does not
define. -/
def Obligations.MemoryHoldsWhatWasWritten : Prop :=
  ∀ (s : State) (a : Addr) (v : Byte),
    (s.plain a = true → readByte a s = .next (s.byteAt a, { s with bus := .read a (s.byteAt a) :: s.bus })) ∧
    (s.kindAt a = .ram → ∃ t, writeByte a v s = .next t ∧ t = { s with mem := t.mem, bus := .write a v :: s.bus } ∧
      ∃ u, readByte a t = .next (v, u) ∧ ∀ b : Addr, s.cellOf b ≠ s.cellOf a → t.byteAt b = s.byteAt b) ∧
    (s.kindAt a = .rom false → writeByte a v s = .refused (.romWrite a)) ∧
    (s.kindAt a = .nothing → readByte a s = .refused (.nothingAt a) ∧ writeByte a v s = .refused (.nothingAt a))

/-- The data accesses of every instruction, their kinds and addresses in order: the table of R61, in the order of R45 (log 20). -/
def Obligations.AccessesInOrder : Prop :=
  ∀ (i : Instr) (s t : State), exec i s = .next t →
    t.bus.map Access.shape = (accesses i s).reverse ++ s.bus.map Access.shape

/-! ## Encoding (spec/30_encoding.md) -/

/-- Decode and encode agree: every well-formed instruction, with every operand, decodes from its bytes, and the bytes after it are
left. -/
def Obligations.DecodeOfEncode : Prop :=
  ∀ (hasRor : Bool) (i : Instr) (rest : List Byte), i.wellFormed hasRor = true →
    decode hasRor (encode i ++ rest) = .ok (i, rest)

/-- What the decoder reads is well formed and encodes to the bytes it was read from, so an instruction has one encoding. -/
def Obligations.EncodeOfDecode : Prop :=
  ∀ (hasRor : Bool) (bytes rest : List Byte) (i : Instr), decode hasRor bytes = .ok (i, rest) →
    i.wellFormed hasRor = true ∧ bytes = encode i ++ rest

/-- The opcodes the decoder rejects are exactly the 105 of R93, and the five of R94 more on a chip without ROR; a step that fetches one
at an address of plain memory is refused by name (R93). -/
def Obligations.UnlistedOpcodesRefused : Prop :=
  (∀ (op : Byte) (rest : List Byte), decode true (op :: rest) = .error (.unlistedOpcode op) ↔ op ∈ unlistedOpcodes) ∧
  (∀ (op : Byte) (rest : List Byte), decode false (op :: rest) = .error (.unlistedOpcode op) ↔
    op ∈ unlistedOpcodes ++ [0x66, 0x6A, 0x6E, 0x76, 0x7E]) ∧
  (∀ s : State, event s = .instruction → s.plain s.pc = true →
    (s.byteAt s.pc ∈ unlistedOpcodes ∨ (s.sys.hasRor = false ∧ s.byteAt s.pc ∈ [0x66, 0x6A, 0x6E, 0x76, 0x7E])) →
    step s = .refused (.unlistedOpcode (s.byteAt s.pc)))

/-- A few words of the spec's own examples decode to the instructions it says they are (R42, R75, R78, R80, R86, R88, R91). -/
def Obligations.ExampleWordsDecode : Prop :=
  decode true [0x4C, 0x34, 0x12] = .ok (.jmpAbs 0x1234, []) ∧
  decode true [0xB1, 0x40] = .ok (.ldaIndY 0x40, []) ∧
  decode true [0xAD, 0x34, 0x12] = .ok (.ldaAbs 0x1234, []) ∧
  decode true [0xB5, 0xF0, 0xEA] = .ok (.ldaZpX 0xF0, [0xEA]) ∧
  decode true [0xA9, 0x80] = .ok (.ldaImm 0x80, []) ∧
  decode true [0xD0, 0xFA] = .ok (.bne 0xFA, []) ∧
  decode true [0x0A] = .ok (.aslAcc, []) ∧
  decode true [0x6C, 0x00, 0x03] = .ok (.jmpInd 0x0300, [])

/-! ## Steps (spec/60_exceptions.md, spec/70_reset_and_hazards.md) -/

/-- A step at whose boundary no reset and no interrupt is taken runs the instruction that the bytes at PC decode to: it uses up the
boundary's inputs, records the opcode and operand reads in order (R16, R45) and is then exec of the instruction; PC is still at the
opcode (R223). -/
def Obligations.StepRunsDecodedInstruction : Prop :=
  ∀ (s : State) (i : Instr) (rest : List Byte), event s = .instruction →
    decode s.sys.hasRor [s.byteAt s.pc, s.byteAt (s.pc + 1), s.byteAt (s.pc + 2)] = .ok (i, rest) →
    (∀ k, k < (encode i).length → s.plain (s.pc + BitVec.ofNat 16 k) = true) →
    step s = exec i { s with
      inputs := s.inputs.tail, heldMask := none
      bus := ((List.range (encode i).length).map fun k =>
        Access.read (s.pc + BitVec.ofNat 16 k) (s.byteAt (s.pc + BitVec.ofNat 16 k))).reverse ++ s.bus }

/-- Reset (R223, R226, R260, R261): taken whatever else the boundary sees, it sets I, loads PC from $FFFC and $FFFD, forgets a pending
NMI and pushes nothing; A, X, Y, S, N, V, D, Z and C are draws. A reset at a boundary leaves memory alone. One that cut an instruction
short leaves RAM unspecified, each byte a draw of this reset's own, and every cell that no RAM address selects alone (log 36). -/
def Obligations.ResetTaken : Prop :=
  ∀ s : State, s.now.res ≠ .none → s.readable 0xFFFC = true → s.readable 0xFFFD = true →
    ∃ (m : Memory) (a x y sp : Byte) (n v d z c : Bool) (k : Nat),
      (s.now.res = .boundary → m = s.mem) ∧
      (∀ b : Addr, s.now.res = .inside → s.kindAt b = .ram →
        ∃ j, s.draws ≤ j ∧ j < k ∧ m.byteAt (s.cellOf b) = Config.drawByte j) ∧
      (∀ cell : Addr, (∀ b : Addr, s.kindAt b = .ram → s.cellOf b ≠ cell) → m.byteAt cell = s.mem.byteAt cell) ∧
      let s0 := { s with mem := m }
      let s1 := s0.afterRead 0xFFFC
      step s = .next { s1.afterRead 0xFFFD with
        a := a, x := x, y := y, sp := sp, p := { n := n, v := v, d := d, i := true, z := z, c := c }
        pc := BitVec.ofNat 16 ((s0.readValue 0xFFFC).toNat + 256 * (s1.readValue 0xFFFD).toNat)
        nmiPending := false, heldMask := none, inputs := s.inputs.tail, draws := k }

/-- NMI and IRQ entry (R223 to R225, R230): at a boundary with no reset, a latched or new NMI edge is taken, and else a low IRQ line
if I does not mask it. PC and P are pushed, high byte first, with the B of R27 0 (or a draw, log 13); I is set and PC comes from the
vector; the latch is clear. D and the other flags are kept (R236). -/
def Obligations.InterruptEntry : Prop :=
  ∀ (s : State) (vec : Addr), s.now.res = .none →
    ((s.nmiPending = true ∨ s.now.nmi = true) ∧ vec = 0xFFFA) ∨
      (s.nmiPending = false ∧ s.now.nmi = false ∧ s.now.irq = true ∧ s.heldMask.getD s.p.i = false ∧ vec = 0xFFFE) →
    s.writable (stackSlot s 0) = true → s.writable (stackSlot s 1) = true → s.writable (stackSlot s 2) = true →
    s.readable vec = true → s.readable (vec + 1) = true →
    ∃ (b5 b4 : Bool) (k : Nat), (s.sys.pushBits = .fixed → b5 = true ∧ b4 = false ∧ k = s.draws) ∧
      let s1 := s.afterWrite (stackSlot s 0) (BitVec.ofNat 8 (s.pc.toNat / 256))
      let s2 := s1.afterWrite (stackSlot s 1) (BitVec.ofNat 8 (s.pc.toNat % 256))
      let s3 := s2.afterWrite (stackSlot s 2) (pushedView s.p b5 b4)
      let s4 := s3.afterRead vec
      step s = .next { s4.afterRead (vec + 1) with
        sp := s.sp - 3, p := { s.p with i := true }, draws := k
        pc := BitVec.ofNat 16 ((s3.readValue vec).toNat + 256 * (s4.readValue (vec + 1)).toNat)
        nmiPending := false, heldMask := none, inputs := s.inputs.tail }

/-- What loses at a boundary is not looked at (R223, R224, R226, R227, log 18): under a reset neither NMI, latched or new, nor IRQ;
under an NMI neither IRQ nor I; and a low IRQ line while I = 1 is ignored. -/
def Obligations.LosingInputsIgnored : Prop :=
  ∀ s : State,
    (s.now.res ≠ .none → ∀ (b : Bool) (h : Option Bool),
      step s = step { s with inputs := ⟨s.now.res, b, b⟩ :: s.inputs.tail, nmiPending := b, heldMask := h }) ∧
    (s.now.res = .none → s.nmiPending = true ∨ s.now.nmi = true → ∀ (b : Bool) (h : Option Bool),
      step s = step { s with inputs := ⟨.none, true, b⟩ :: s.inputs.tail, nmiPending := b, heldMask := h }) ∧
    (s.heldMask.getD s.p.i = true → ∀ b : Bool,
      step s = step { s with inputs := ⟨s.now.res, s.now.nmi, b⟩ :: s.inputs.tail })

/-- Which I governs the boundary after CLI and SEI when the IRQ line is low and neither RES nor NMI calls (R229, log 17): the new one
under `I_LATENCY` = none, the spec's value, and the one from before under the alternative. -/
def Obligations.ChangeOfIGovernsNextBoundary : Prop :=
  ∀ s : State, s.now = ⟨.none, false, true⟩ → s.nmiPending = false → s.heldMask = none →
    ∃ t u, exec .cli s = .next t ∧ exec .sei s = .next u ∧
      (s.sys.iLatency = .none → event t = .irq ∧ event u = .instruction) ∧
      (s.sys.iLatency = .oneInstruction → event t = event u ∧ (event t = .irq ↔ s.p.i = false))

/-- "Returning with RTI resumes the program exactly where it was, with the flags it had" (R231, R233): after an NMI or IRQ entry
through RAM at page 1, an RTI at whatever state the handler leaves, with S and the three stack bytes as the entry left them, gives back PC,
the six flags and S, and changes nothing else but the record. -/
def Obligations.RtiResumesInterruptedProgram : Prop :=
  ∀ s t : State, event s = .nmi ∨ event s = .irq → step s = .next t →
    (∀ k, k < 3 → s.kindAt (stackSlot s k) = .ram) →
    (∀ j k, j < k → k < 3 → s.cellOf (stackSlot s j) ≠ s.cellOf (stackSlot s k)) →
    ∀ u : State, u.sys = t.sys → u.sp = t.sp → (∀ k, k < 3 → u.byteAt (stackSlot s k) = t.byteAt (stackSlot s k)) →
      ∃ v, exec .rti u = .next v ∧ v = { u with pc := s.pc, p := s.p, sp := s.sp, bus := v.bus }

/-- What every step keeps: the memory's canonical form with no held mask but under `I_LATENCY` = one_instruction (`State.wf`), the
parameters (R32), the record as a history that only grows, and an NMI latch that is clear once the boundary is past (R225). -/
def Obligations.EveryStepKeepsInvariant : Prop :=
  ∀ s t : State, s.wf = true → step s = .next t →
    t.wf = true ∧ t.sys = s.sys ∧ s.bus <:+ t.bus ∧ t.nmiPending = false

/-- The invariant holds at reset, and after an instruction is loaded for the next step. -/
def Obligations.ResetKeepsInvariant : Prop :=
  State.reset.wf = true ∧ ∀ nbits w : Nat, (State.reset.withFetchWord nbits w).wf = true

/-- R33: after reset I = 1, and PC is the content of the RES vector. What the vector holds is the model's choice (log 3) and is not
said here. -/
def Obligations.ResetValues : Prop :=
  State.reset.p.i = true ∧ State.reset.pc = wordOf (State.reset.byteAt 0xFFFC) (State.reset.byteAt 0xFFFD)

/-- When every address can be written (all of memory is RAM, or ROM whose writes are dropped, or devices), a step keeps it so, and only
two things end a run: an opcode that is on no line of the table of the chip (R93, R94) and, under `PTR_PAGE_CROSS` = refuse, a pointer
across a page (R85). There is no fault (R221). -/
def Obligations.OnlyTwoRefusals : Prop :=
  ∀ s : State, (∀ a : Addr, s.writable a = true) →
    (∃ t, step s = .next t ∧ ∀ a : Addr, t.writable a = true) ∨
    (∃ op, step s = .refused (.unlistedOpcode op) ∧ rowOf s.sys.hasRor op = none) ∨
    (∃ p, step s = .refused (.pointerCrossesPage p) ∧ lowByte p = 0xFF ∧ s.sys.ptrPageCross = .refuse)
end

