-- ==== Sys2Proof/Laws/Memory.lean ====
section
/-! SUPPORT. The memory's laws: a read after a write, and that every operation keeps the canonical form. -/

namespace Sys2Proof.Machine

theorem Memory.listed_insert (m : Memory) (k k' : Nat) (v : Byte) :
    (m.insert k v).listed k' = if k' = k then some v else m.listed k' := by
  induction m with
  | nil => simp [Memory.insert, Memory.listed]
  | cons c m ih =>
    obtain ⟨c, w⟩ := c
    simp only [Memory.insert]
    split
    · simp [Memory.listed]
    · split
      · subst_vars; simp only [Memory.listed]; split <;> simp_all
      · simp only [Memory.listed, ih]; split
        · subst_vars; split <;> simp_all
        · rfl

theorem Memory.wfFrom_mono {m : Memory} {lo lo' : Nat} (h : m.wfFrom lo = true) (hl : lo' ≤ lo) : m.wfFrom lo' = true := by
  cases m with
  | nil => rfl
  | cons c m =>
    obtain ⟨c, w⟩ := c
    simp only [Memory.wfFrom, Bool.and_eq_true, decide_eq_true_eq] at h ⊢
    exact ⟨⟨⟨by omega, h.1.1.2⟩, h.1.2⟩, h.2⟩

theorem Memory.listed_erase (m : Memory) (k k' : Nat) :
    (m.erase k).listed k' = if k' = k then none else m.listed k' := by
  induction m with
  | nil => simp [Memory.erase, Memory.listed]
  | cons c m ih =>
    obtain ⟨c, w⟩ := c
    simp only [Memory.erase]
    split
    · subst_vars; simp only [Memory.listed, ih]; split <;> simp_all
    · simp only [Memory.listed, ih]; split
      · subst_vars; split <;> simp_all
      · rfl

theorem Memory.wfFrom_insert {m : Memory} {lo k : Nat} {v : Byte} (h : m.wfFrom lo = true) (hk : lo ≤ k)
    (hb : k < 0x10000) (hu : Memory.unlisted k ≠ some v) : (m.insert k v).wfFrom lo = true := by
  induction m generalizing lo with
  | nil => simp [Memory.insert, Memory.wfFrom, hk, hb, hu]
  | cons c m ih =>
    obtain ⟨c, w⟩ := c
    simp only [Memory.insert]
    have h' := h
    simp only [Memory.wfFrom, Bool.and_eq_true, decide_eq_true_eq] at h'
    split
    · rename_i hlt
      simp only [Memory.wfFrom, Bool.and_eq_true, decide_eq_true_eq]
      exact ⟨⟨⟨hk, hb⟩, by simp [hu]⟩, ⟨⟨⟨by omega, h'.1.1.2⟩, h'.1.2⟩, h'.2⟩⟩
    · split
      · subst_vars
        simp only [Memory.wfFrom, Bool.and_eq_true, decide_eq_true_eq]
        exact ⟨⟨⟨hk, hb⟩, by simp [hu]⟩, h'.2⟩
      · simp only [Memory.wfFrom, Bool.and_eq_true, decide_eq_true_eq]
        exact ⟨h'.1, ih h'.2 (by omega)⟩

theorem Memory.wfFrom_erase {m : Memory} {lo k : Nat} (h : m.wfFrom lo = true) : (m.erase k).wfFrom lo = true := by
  induction m generalizing lo with
  | nil => rfl
  | cons c m ih =>
    obtain ⟨c, w⟩ := c
    simp only [Memory.erase]
    have h' := h
    simp only [Memory.wfFrom, Bool.and_eq_true, decide_eq_true_eq] at h'
    split
    · exact ih (Memory.wfFrom_mono h'.2 (by omega))
    · simp only [Memory.wfFrom, Bool.and_eq_true, decide_eq_true_eq]
      exact ⟨h'.1, ih h'.2⟩

/-- A write keeps the canonical form. -/
theorem Memory.wf_store {m : Memory} (h : m.wf = true) (a : Addr) (v : Byte) : (m.store a v).wf = true := by
  unfold Memory.wf Memory.store at *
  split
  · exact Memory.wfFrom_erase h
  · rename_i hu; exact Memory.wfFrom_insert h (Nat.zero_le _) a.isLt hu

/-- A read after a write to the same cell gives the byte written. -/
theorem Memory.byteAt_store_same (m : Memory) (a : Addr) (v : Byte) : (m.store a v).byteAt a = v := by
  unfold Memory.byteAt Memory.store
  by_cases hu : Memory.unlisted a.toNat = some v
  · simp [hu, Memory.listed_erase]
  · simp [hu, Memory.listed_insert]

/-- A write leaves every other cell alone. -/
theorem Memory.byteAt_store_other (m : Memory) {a b : Addr} (hab : b ≠ a) (v : Byte) :
    (m.store a v).byteAt b = m.byteAt b := by
  have hn : b.toNat ≠ a.toNat := fun e => hab (BitVec.eq_of_toNat_eq e)
  unfold Memory.byteAt Memory.store
  by_cases hu : Memory.unlisted a.toNat = some v
  · simp [hu, Memory.listed_erase, hn]
  · simp [hu, Memory.listed_insert, hn]

end Sys2Proof.Machine
end

