-- ==== Sys2Proof/Laws/State.lean ====
section
/-! SUPPORT. One lemma per field per named update of the state, and what the map functions see of an update. -/

namespace Sys2Proof.Machine

@[simp] theorem State.setA_a (s : State) (v : Byte) : (s.setA v).a = v := rfl
@[simp] theorem State.setA_x (s : State) (v : Byte) : (s.setA v).x = s.x := rfl
@[simp] theorem State.setA_y (s : State) (v : Byte) : (s.setA v).y = s.y := rfl
@[simp] theorem State.setA_sp (s : State) (v : Byte) : (s.setA v).sp = s.sp := rfl
@[simp] theorem State.setA_pc (s : State) (v : Byte) : (s.setA v).pc = s.pc := rfl
@[simp] theorem State.setA_p (s : State) (v : Byte) : (s.setA v).p = s.p := rfl
@[simp] theorem State.setA_nmiPending (s : State) (v : Byte) : (s.setA v).nmiPending = s.nmiPending := rfl
@[simp] theorem State.setA_heldMask (s : State) (v : Byte) : (s.setA v).heldMask = s.heldMask := rfl
@[simp] theorem State.setA_mem (s : State) (v : Byte) : (s.setA v).mem = s.mem := rfl
@[simp] theorem State.setA_sys (s : State) (v : Byte) : (s.setA v).sys = s.sys := rfl
@[simp] theorem State.setA_inputs (s : State) (v : Byte) : (s.setA v).inputs = s.inputs := rfl
@[simp] theorem State.setA_draws (s : State) (v : Byte) : (s.setA v).draws = s.draws := rfl
@[simp] theorem State.setA_bus (s : State) (v : Byte) : (s.setA v).bus = s.bus := rfl

@[simp] theorem State.setX_a (s : State) (v : Byte) : (s.setX v).a = s.a := rfl
@[simp] theorem State.setX_x (s : State) (v : Byte) : (s.setX v).x = v := rfl
@[simp] theorem State.setX_y (s : State) (v : Byte) : (s.setX v).y = s.y := rfl
@[simp] theorem State.setX_sp (s : State) (v : Byte) : (s.setX v).sp = s.sp := rfl
@[simp] theorem State.setX_pc (s : State) (v : Byte) : (s.setX v).pc = s.pc := rfl
@[simp] theorem State.setX_p (s : State) (v : Byte) : (s.setX v).p = s.p := rfl
@[simp] theorem State.setX_nmiPending (s : State) (v : Byte) : (s.setX v).nmiPending = s.nmiPending := rfl
@[simp] theorem State.setX_heldMask (s : State) (v : Byte) : (s.setX v).heldMask = s.heldMask := rfl
@[simp] theorem State.setX_mem (s : State) (v : Byte) : (s.setX v).mem = s.mem := rfl
@[simp] theorem State.setX_sys (s : State) (v : Byte) : (s.setX v).sys = s.sys := rfl
@[simp] theorem State.setX_inputs (s : State) (v : Byte) : (s.setX v).inputs = s.inputs := rfl
@[simp] theorem State.setX_draws (s : State) (v : Byte) : (s.setX v).draws = s.draws := rfl
@[simp] theorem State.setX_bus (s : State) (v : Byte) : (s.setX v).bus = s.bus := rfl

@[simp] theorem State.setY_a (s : State) (v : Byte) : (s.setY v).a = s.a := rfl
@[simp] theorem State.setY_x (s : State) (v : Byte) : (s.setY v).x = s.x := rfl
@[simp] theorem State.setY_y (s : State) (v : Byte) : (s.setY v).y = v := rfl
@[simp] theorem State.setY_sp (s : State) (v : Byte) : (s.setY v).sp = s.sp := rfl
@[simp] theorem State.setY_pc (s : State) (v : Byte) : (s.setY v).pc = s.pc := rfl
@[simp] theorem State.setY_p (s : State) (v : Byte) : (s.setY v).p = s.p := rfl
@[simp] theorem State.setY_nmiPending (s : State) (v : Byte) : (s.setY v).nmiPending = s.nmiPending := rfl
@[simp] theorem State.setY_heldMask (s : State) (v : Byte) : (s.setY v).heldMask = s.heldMask := rfl
@[simp] theorem State.setY_mem (s : State) (v : Byte) : (s.setY v).mem = s.mem := rfl
@[simp] theorem State.setY_sys (s : State) (v : Byte) : (s.setY v).sys = s.sys := rfl
@[simp] theorem State.setY_inputs (s : State) (v : Byte) : (s.setY v).inputs = s.inputs := rfl
@[simp] theorem State.setY_draws (s : State) (v : Byte) : (s.setY v).draws = s.draws := rfl
@[simp] theorem State.setY_bus (s : State) (v : Byte) : (s.setY v).bus = s.bus := rfl

@[simp] theorem State.setSp_a (s : State) (v : Byte) : (s.setSp v).a = s.a := rfl
@[simp] theorem State.setSp_x (s : State) (v : Byte) : (s.setSp v).x = s.x := rfl
@[simp] theorem State.setSp_y (s : State) (v : Byte) : (s.setSp v).y = s.y := rfl
@[simp] theorem State.setSp_sp (s : State) (v : Byte) : (s.setSp v).sp = v := rfl
@[simp] theorem State.setSp_pc (s : State) (v : Byte) : (s.setSp v).pc = s.pc := rfl
@[simp] theorem State.setSp_p (s : State) (v : Byte) : (s.setSp v).p = s.p := rfl
@[simp] theorem State.setSp_nmiPending (s : State) (v : Byte) : (s.setSp v).nmiPending = s.nmiPending := rfl
@[simp] theorem State.setSp_heldMask (s : State) (v : Byte) : (s.setSp v).heldMask = s.heldMask := rfl
@[simp] theorem State.setSp_mem (s : State) (v : Byte) : (s.setSp v).mem = s.mem := rfl
@[simp] theorem State.setSp_sys (s : State) (v : Byte) : (s.setSp v).sys = s.sys := rfl
@[simp] theorem State.setSp_inputs (s : State) (v : Byte) : (s.setSp v).inputs = s.inputs := rfl
@[simp] theorem State.setSp_draws (s : State) (v : Byte) : (s.setSp v).draws = s.draws := rfl
@[simp] theorem State.setSp_bus (s : State) (v : Byte) : (s.setSp v).bus = s.bus := rfl

@[simp] theorem State.setPc_a (s : State) (v : Addr) : (s.setPc v).a = s.a := rfl
@[simp] theorem State.setPc_x (s : State) (v : Addr) : (s.setPc v).x = s.x := rfl
@[simp] theorem State.setPc_y (s : State) (v : Addr) : (s.setPc v).y = s.y := rfl
@[simp] theorem State.setPc_sp (s : State) (v : Addr) : (s.setPc v).sp = s.sp := rfl
@[simp] theorem State.setPc_pc (s : State) (v : Addr) : (s.setPc v).pc = v := rfl
@[simp] theorem State.setPc_p (s : State) (v : Addr) : (s.setPc v).p = s.p := rfl
@[simp] theorem State.setPc_nmiPending (s : State) (v : Addr) : (s.setPc v).nmiPending = s.nmiPending := rfl
@[simp] theorem State.setPc_heldMask (s : State) (v : Addr) : (s.setPc v).heldMask = s.heldMask := rfl
@[simp] theorem State.setPc_mem (s : State) (v : Addr) : (s.setPc v).mem = s.mem := rfl
@[simp] theorem State.setPc_sys (s : State) (v : Addr) : (s.setPc v).sys = s.sys := rfl
@[simp] theorem State.setPc_inputs (s : State) (v : Addr) : (s.setPc v).inputs = s.inputs := rfl
@[simp] theorem State.setPc_draws (s : State) (v : Addr) : (s.setPc v).draws = s.draws := rfl
@[simp] theorem State.setPc_bus (s : State) (v : Addr) : (s.setPc v).bus = s.bus := rfl

@[simp] theorem State.setP_a (s : State) (v : Flags) : (s.setP v).a = s.a := rfl
@[simp] theorem State.setP_x (s : State) (v : Flags) : (s.setP v).x = s.x := rfl
@[simp] theorem State.setP_y (s : State) (v : Flags) : (s.setP v).y = s.y := rfl
@[simp] theorem State.setP_sp (s : State) (v : Flags) : (s.setP v).sp = s.sp := rfl
@[simp] theorem State.setP_pc (s : State) (v : Flags) : (s.setP v).pc = s.pc := rfl
@[simp] theorem State.setP_p (s : State) (v : Flags) : (s.setP v).p = v := rfl
@[simp] theorem State.setP_nmiPending (s : State) (v : Flags) : (s.setP v).nmiPending = s.nmiPending := rfl
@[simp] theorem State.setP_heldMask (s : State) (v : Flags) : (s.setP v).heldMask = s.heldMask := rfl
@[simp] theorem State.setP_mem (s : State) (v : Flags) : (s.setP v).mem = s.mem := rfl
@[simp] theorem State.setP_sys (s : State) (v : Flags) : (s.setP v).sys = s.sys := rfl
@[simp] theorem State.setP_inputs (s : State) (v : Flags) : (s.setP v).inputs = s.inputs := rfl
@[simp] theorem State.setP_draws (s : State) (v : Flags) : (s.setP v).draws = s.draws := rfl
@[simp] theorem State.setP_bus (s : State) (v : Flags) : (s.setP v).bus = s.bus := rfl

@[simp] theorem State.setMem_a (s : State) (v : Memory) : (s.setMem v).a = s.a := rfl
@[simp] theorem State.setMem_x (s : State) (v : Memory) : (s.setMem v).x = s.x := rfl
@[simp] theorem State.setMem_y (s : State) (v : Memory) : (s.setMem v).y = s.y := rfl
@[simp] theorem State.setMem_sp (s : State) (v : Memory) : (s.setMem v).sp = s.sp := rfl
@[simp] theorem State.setMem_pc (s : State) (v : Memory) : (s.setMem v).pc = s.pc := rfl
@[simp] theorem State.setMem_p (s : State) (v : Memory) : (s.setMem v).p = s.p := rfl
@[simp] theorem State.setMem_nmiPending (s : State) (v : Memory) : (s.setMem v).nmiPending = s.nmiPending := rfl
@[simp] theorem State.setMem_heldMask (s : State) (v : Memory) : (s.setMem v).heldMask = s.heldMask := rfl
@[simp] theorem State.setMem_mem (s : State) (v : Memory) : (s.setMem v).mem = v := rfl
@[simp] theorem State.setMem_sys (s : State) (v : Memory) : (s.setMem v).sys = s.sys := rfl
@[simp] theorem State.setMem_inputs (s : State) (v : Memory) : (s.setMem v).inputs = s.inputs := rfl
@[simp] theorem State.setMem_draws (s : State) (v : Memory) : (s.setMem v).draws = s.draws := rfl
@[simp] theorem State.setMem_bus (s : State) (v : Memory) : (s.setMem v).bus = s.bus := rfl

@[simp] theorem State.setDraws_a (s : State) (v : Nat) : (s.setDraws v).a = s.a := rfl
@[simp] theorem State.setDraws_x (s : State) (v : Nat) : (s.setDraws v).x = s.x := rfl
@[simp] theorem State.setDraws_y (s : State) (v : Nat) : (s.setDraws v).y = s.y := rfl
@[simp] theorem State.setDraws_sp (s : State) (v : Nat) : (s.setDraws v).sp = s.sp := rfl
@[simp] theorem State.setDraws_pc (s : State) (v : Nat) : (s.setDraws v).pc = s.pc := rfl
@[simp] theorem State.setDraws_p (s : State) (v : Nat) : (s.setDraws v).p = s.p := rfl
@[simp] theorem State.setDraws_nmiPending (s : State) (v : Nat) : (s.setDraws v).nmiPending = s.nmiPending := rfl
@[simp] theorem State.setDraws_heldMask (s : State) (v : Nat) : (s.setDraws v).heldMask = s.heldMask := rfl
@[simp] theorem State.setDraws_mem (s : State) (v : Nat) : (s.setDraws v).mem = s.mem := rfl
@[simp] theorem State.setDraws_sys (s : State) (v : Nat) : (s.setDraws v).sys = s.sys := rfl
@[simp] theorem State.setDraws_inputs (s : State) (v : Nat) : (s.setDraws v).inputs = s.inputs := rfl
@[simp] theorem State.setDraws_draws (s : State) (v : Nat) : (s.setDraws v).draws = v := rfl
@[simp] theorem State.setDraws_bus (s : State) (v : Nat) : (s.setDraws v).bus = s.bus := rfl

@[simp] theorem State.setHeldMask_a (s : State) (v : Option Bool) : (s.setHeldMask v).a = s.a := rfl
@[simp] theorem State.setHeldMask_x (s : State) (v : Option Bool) : (s.setHeldMask v).x = s.x := rfl
@[simp] theorem State.setHeldMask_y (s : State) (v : Option Bool) : (s.setHeldMask v).y = s.y := rfl
@[simp] theorem State.setHeldMask_sp (s : State) (v : Option Bool) : (s.setHeldMask v).sp = s.sp := rfl
@[simp] theorem State.setHeldMask_pc (s : State) (v : Option Bool) : (s.setHeldMask v).pc = s.pc := rfl
@[simp] theorem State.setHeldMask_p (s : State) (v : Option Bool) : (s.setHeldMask v).p = s.p := rfl
@[simp] theorem State.setHeldMask_nmiPending (s : State) (v : Option Bool) : (s.setHeldMask v).nmiPending = s.nmiPending := rfl
@[simp] theorem State.setHeldMask_heldMask (s : State) (v : Option Bool) : (s.setHeldMask v).heldMask = v := rfl
@[simp] theorem State.setHeldMask_mem (s : State) (v : Option Bool) : (s.setHeldMask v).mem = s.mem := rfl
@[simp] theorem State.setHeldMask_sys (s : State) (v : Option Bool) : (s.setHeldMask v).sys = s.sys := rfl
@[simp] theorem State.setHeldMask_inputs (s : State) (v : Option Bool) : (s.setHeldMask v).inputs = s.inputs := rfl
@[simp] theorem State.setHeldMask_draws (s : State) (v : Option Bool) : (s.setHeldMask v).draws = s.draws := rfl
@[simp] theorem State.setHeldMask_bus (s : State) (v : Option Bool) : (s.setHeldMask v).bus = s.bus := rfl

@[simp] theorem State.setNmiPending_a (s : State) (v : Bool) : (s.setNmiPending v).a = s.a := rfl
@[simp] theorem State.setNmiPending_x (s : State) (v : Bool) : (s.setNmiPending v).x = s.x := rfl
@[simp] theorem State.setNmiPending_y (s : State) (v : Bool) : (s.setNmiPending v).y = s.y := rfl
@[simp] theorem State.setNmiPending_sp (s : State) (v : Bool) : (s.setNmiPending v).sp = s.sp := rfl
@[simp] theorem State.setNmiPending_pc (s : State) (v : Bool) : (s.setNmiPending v).pc = s.pc := rfl
@[simp] theorem State.setNmiPending_p (s : State) (v : Bool) : (s.setNmiPending v).p = s.p := rfl
@[simp] theorem State.setNmiPending_nmiPending (s : State) (v : Bool) : (s.setNmiPending v).nmiPending = v := rfl
@[simp] theorem State.setNmiPending_heldMask (s : State) (v : Bool) : (s.setNmiPending v).heldMask = s.heldMask := rfl
@[simp] theorem State.setNmiPending_mem (s : State) (v : Bool) : (s.setNmiPending v).mem = s.mem := rfl
@[simp] theorem State.setNmiPending_sys (s : State) (v : Bool) : (s.setNmiPending v).sys = s.sys := rfl
@[simp] theorem State.setNmiPending_inputs (s : State) (v : Bool) : (s.setNmiPending v).inputs = s.inputs := rfl
@[simp] theorem State.setNmiPending_draws (s : State) (v : Bool) : (s.setNmiPending v).draws = s.draws := rfl
@[simp] theorem State.setNmiPending_bus (s : State) (v : Bool) : (s.setNmiPending v).bus = s.bus := rfl

@[simp] theorem State.setInputs_a (s : State) (v : List Inputs) : (s.setInputs v).a = s.a := rfl
@[simp] theorem State.setInputs_x (s : State) (v : List Inputs) : (s.setInputs v).x = s.x := rfl
@[simp] theorem State.setInputs_y (s : State) (v : List Inputs) : (s.setInputs v).y = s.y := rfl
@[simp] theorem State.setInputs_sp (s : State) (v : List Inputs) : (s.setInputs v).sp = s.sp := rfl
@[simp] theorem State.setInputs_pc (s : State) (v : List Inputs) : (s.setInputs v).pc = s.pc := rfl
@[simp] theorem State.setInputs_p (s : State) (v : List Inputs) : (s.setInputs v).p = s.p := rfl
@[simp] theorem State.setInputs_nmiPending (s : State) (v : List Inputs) : (s.setInputs v).nmiPending = s.nmiPending := rfl
@[simp] theorem State.setInputs_heldMask (s : State) (v : List Inputs) : (s.setInputs v).heldMask = s.heldMask := rfl
@[simp] theorem State.setInputs_mem (s : State) (v : List Inputs) : (s.setInputs v).mem = s.mem := rfl
@[simp] theorem State.setInputs_sys (s : State) (v : List Inputs) : (s.setInputs v).sys = s.sys := rfl
@[simp] theorem State.setInputs_inputs (s : State) (v : List Inputs) : (s.setInputs v).inputs = v := rfl
@[simp] theorem State.setInputs_draws (s : State) (v : List Inputs) : (s.setInputs v).draws = s.draws := rfl
@[simp] theorem State.setInputs_bus (s : State) (v : List Inputs) : (s.setInputs v).bus = s.bus := rfl

@[simp] theorem State.record_a (s : State) (e : Access) : (s.record e).a = s.a := rfl
@[simp] theorem State.record_x (s : State) (e : Access) : (s.record e).x = s.x := rfl
@[simp] theorem State.record_y (s : State) (e : Access) : (s.record e).y = s.y := rfl
@[simp] theorem State.record_sp (s : State) (e : Access) : (s.record e).sp = s.sp := rfl
@[simp] theorem State.record_pc (s : State) (e : Access) : (s.record e).pc = s.pc := rfl
@[simp] theorem State.record_p (s : State) (e : Access) : (s.record e).p = s.p := rfl
@[simp] theorem State.record_nmiPending (s : State) (e : Access) : (s.record e).nmiPending = s.nmiPending := rfl
@[simp] theorem State.record_heldMask (s : State) (e : Access) : (s.record e).heldMask = s.heldMask := rfl
@[simp] theorem State.record_mem (s : State) (e : Access) : (s.record e).mem = s.mem := rfl
@[simp] theorem State.record_sys (s : State) (e : Access) : (s.record e).sys = s.sys := rfl
@[simp] theorem State.record_inputs (s : State) (e : Access) : (s.record e).inputs = s.inputs := rfl
@[simp] theorem State.record_draws (s : State) (e : Access) : (s.record e).draws = s.draws := rfl
@[simp] theorem State.record_bus (s : State) (e : Access) : (s.record e).bus = e :: s.bus := rfl

@[simp] theorem State.advance_a (s : State) (len : Nat) : (s.advance len).a = s.a := rfl
@[simp] theorem State.advance_x (s : State) (len : Nat) : (s.advance len).x = s.x := rfl
@[simp] theorem State.advance_y (s : State) (len : Nat) : (s.advance len).y = s.y := rfl
@[simp] theorem State.advance_sp (s : State) (len : Nat) : (s.advance len).sp = s.sp := rfl
@[simp] theorem State.advance_pc (s : State) (len : Nat) : (s.advance len).pc = s.pc + BitVec.ofNat 16 len := rfl
@[simp] theorem State.advance_p (s : State) (len : Nat) : (s.advance len).p = s.p := rfl
@[simp] theorem State.advance_nmiPending (s : State) (len : Nat) : (s.advance len).nmiPending = s.nmiPending := rfl
@[simp] theorem State.advance_heldMask (s : State) (len : Nat) : (s.advance len).heldMask = s.heldMask := rfl
@[simp] theorem State.advance_mem (s : State) (len : Nat) : (s.advance len).mem = s.mem := rfl
@[simp] theorem State.advance_sys (s : State) (len : Nat) : (s.advance len).sys = s.sys := rfl
@[simp] theorem State.advance_inputs (s : State) (len : Nat) : (s.advance len).inputs = s.inputs := rfl
@[simp] theorem State.advance_draws (s : State) (len : Nat) : (s.advance len).draws = s.draws := rfl
@[simp] theorem State.advance_bus (s : State) (len : Nat) : (s.advance len).bus = s.bus := rfl

@[simp] theorem State.loadA_a (s : State) (v : Byte) : (s.loadA v).a = v := rfl
@[simp] theorem State.loadA_x (s : State) (v : Byte) : (s.loadA v).x = s.x := rfl
@[simp] theorem State.loadA_y (s : State) (v : Byte) : (s.loadA v).y = s.y := rfl
@[simp] theorem State.loadA_sp (s : State) (v : Byte) : (s.loadA v).sp = s.sp := rfl
@[simp] theorem State.loadA_pc (s : State) (v : Byte) : (s.loadA v).pc = s.pc := rfl
@[simp] theorem State.loadA_p (s : State) (v : Byte) : (s.loadA v).p = s.p.setNZ v := rfl
@[simp] theorem State.loadA_nmiPending (s : State) (v : Byte) : (s.loadA v).nmiPending = s.nmiPending := rfl
@[simp] theorem State.loadA_heldMask (s : State) (v : Byte) : (s.loadA v).heldMask = s.heldMask := rfl
@[simp] theorem State.loadA_mem (s : State) (v : Byte) : (s.loadA v).mem = s.mem := rfl
@[simp] theorem State.loadA_sys (s : State) (v : Byte) : (s.loadA v).sys = s.sys := rfl
@[simp] theorem State.loadA_inputs (s : State) (v : Byte) : (s.loadA v).inputs = s.inputs := rfl
@[simp] theorem State.loadA_draws (s : State) (v : Byte) : (s.loadA v).draws = s.draws := rfl
@[simp] theorem State.loadA_bus (s : State) (v : Byte) : (s.loadA v).bus = s.bus := rfl

@[simp] theorem State.loadX_a (s : State) (v : Byte) : (s.loadX v).a = s.a := rfl
@[simp] theorem State.loadX_x (s : State) (v : Byte) : (s.loadX v).x = v := rfl
@[simp] theorem State.loadX_y (s : State) (v : Byte) : (s.loadX v).y = s.y := rfl
@[simp] theorem State.loadX_sp (s : State) (v : Byte) : (s.loadX v).sp = s.sp := rfl
@[simp] theorem State.loadX_pc (s : State) (v : Byte) : (s.loadX v).pc = s.pc := rfl
@[simp] theorem State.loadX_p (s : State) (v : Byte) : (s.loadX v).p = s.p.setNZ v := rfl
@[simp] theorem State.loadX_nmiPending (s : State) (v : Byte) : (s.loadX v).nmiPending = s.nmiPending := rfl
@[simp] theorem State.loadX_heldMask (s : State) (v : Byte) : (s.loadX v).heldMask = s.heldMask := rfl
@[simp] theorem State.loadX_mem (s : State) (v : Byte) : (s.loadX v).mem = s.mem := rfl
@[simp] theorem State.loadX_sys (s : State) (v : Byte) : (s.loadX v).sys = s.sys := rfl
@[simp] theorem State.loadX_inputs (s : State) (v : Byte) : (s.loadX v).inputs = s.inputs := rfl
@[simp] theorem State.loadX_draws (s : State) (v : Byte) : (s.loadX v).draws = s.draws := rfl
@[simp] theorem State.loadX_bus (s : State) (v : Byte) : (s.loadX v).bus = s.bus := rfl

@[simp] theorem State.loadY_a (s : State) (v : Byte) : (s.loadY v).a = s.a := rfl
@[simp] theorem State.loadY_x (s : State) (v : Byte) : (s.loadY v).x = s.x := rfl
@[simp] theorem State.loadY_y (s : State) (v : Byte) : (s.loadY v).y = v := rfl
@[simp] theorem State.loadY_sp (s : State) (v : Byte) : (s.loadY v).sp = s.sp := rfl
@[simp] theorem State.loadY_pc (s : State) (v : Byte) : (s.loadY v).pc = s.pc := rfl
@[simp] theorem State.loadY_p (s : State) (v : Byte) : (s.loadY v).p = s.p.setNZ v := rfl
@[simp] theorem State.loadY_nmiPending (s : State) (v : Byte) : (s.loadY v).nmiPending = s.nmiPending := rfl
@[simp] theorem State.loadY_heldMask (s : State) (v : Byte) : (s.loadY v).heldMask = s.heldMask := rfl
@[simp] theorem State.loadY_mem (s : State) (v : Byte) : (s.loadY v).mem = s.mem := rfl
@[simp] theorem State.loadY_sys (s : State) (v : Byte) : (s.loadY v).sys = s.sys := rfl
@[simp] theorem State.loadY_inputs (s : State) (v : Byte) : (s.loadY v).inputs = s.inputs := rfl
@[simp] theorem State.loadY_draws (s : State) (v : Byte) : (s.loadY v).draws = s.draws := rfl
@[simp] theorem State.loadY_bus (s : State) (v : Byte) : (s.loadY v).bus = s.bus := rfl

@[simp] theorem State.afterRead_a (s : State) (b : Addr) : (s.afterRead b).a = s.a := rfl
@[simp] theorem State.afterRead_x (s : State) (b : Addr) : (s.afterRead b).x = s.x := rfl
@[simp] theorem State.afterRead_y (s : State) (b : Addr) : (s.afterRead b).y = s.y := rfl
@[simp] theorem State.afterRead_sp (s : State) (b : Addr) : (s.afterRead b).sp = s.sp := rfl
@[simp] theorem State.afterRead_pc (s : State) (b : Addr) : (s.afterRead b).pc = s.pc := rfl
@[simp] theorem State.afterRead_p (s : State) (b : Addr) : (s.afterRead b).p = s.p := rfl
@[simp] theorem State.afterRead_nmiPending (s : State) (b : Addr) : (s.afterRead b).nmiPending = s.nmiPending := rfl
@[simp] theorem State.afterRead_heldMask (s : State) (b : Addr) : (s.afterRead b).heldMask = s.heldMask := rfl
@[simp] theorem State.afterRead_mem (s : State) (b : Addr) : (s.afterRead b).mem = s.mem := rfl
@[simp] theorem State.afterRead_sys (s : State) (b : Addr) : (s.afterRead b).sys = s.sys := rfl
@[simp] theorem State.afterRead_inputs (s : State) (b : Addr) : (s.afterRead b).inputs = s.inputs := rfl
@[simp] theorem State.afterRead_draws (s : State) (b : Addr) : (s.afterRead b).draws = s.draws := rfl
@[simp] theorem State.afterRead_bus (s : State) (b : Addr) : (s.afterRead b).bus = .read b (s.readValue b) :: s.bus := rfl

@[simp] theorem State.afterWrite_a (s : State) (b : Addr) (v : Byte) : (s.afterWrite b v).a = s.a := by
  unfold State.afterWrite; split <;> rfl
@[simp] theorem State.afterWrite_x (s : State) (b : Addr) (v : Byte) : (s.afterWrite b v).x = s.x := by
  unfold State.afterWrite; split <;> rfl
@[simp] theorem State.afterWrite_y (s : State) (b : Addr) (v : Byte) : (s.afterWrite b v).y = s.y := by
  unfold State.afterWrite; split <;> rfl
@[simp] theorem State.afterWrite_sp (s : State) (b : Addr) (v : Byte) : (s.afterWrite b v).sp = s.sp := by
  unfold State.afterWrite; split <;> rfl
@[simp] theorem State.afterWrite_pc (s : State) (b : Addr) (v : Byte) : (s.afterWrite b v).pc = s.pc := by
  unfold State.afterWrite; split <;> rfl
@[simp] theorem State.afterWrite_p (s : State) (b : Addr) (v : Byte) : (s.afterWrite b v).p = s.p := by
  unfold State.afterWrite; split <;> rfl
@[simp] theorem State.afterWrite_nmiPending (s : State) (b : Addr) (v : Byte) : (s.afterWrite b v).nmiPending = s.nmiPending := by
  unfold State.afterWrite; split <;> rfl
@[simp] theorem State.afterWrite_heldMask (s : State) (b : Addr) (v : Byte) : (s.afterWrite b v).heldMask = s.heldMask := by
  unfold State.afterWrite; split <;> rfl
@[simp] theorem State.afterWrite_sys (s : State) (b : Addr) (v : Byte) : (s.afterWrite b v).sys = s.sys := by
  unfold State.afterWrite; split <;> rfl
@[simp] theorem State.afterWrite_inputs (s : State) (b : Addr) (v : Byte) : (s.afterWrite b v).inputs = s.inputs := by
  unfold State.afterWrite; split <;> rfl
@[simp] theorem State.afterWrite_draws (s : State) (b : Addr) (v : Byte) : (s.afterWrite b v).draws = s.draws := by
  unfold State.afterWrite; split <;> rfl
@[simp] theorem State.afterWrite_bus (s : State) (b : Addr) (v : Byte) : (s.afterWrite b v).bus = .write b v :: s.bus := by
  unfold State.afterWrite; split <;> rfl
theorem State.afterWrite_mem (s : State) (b : Addr) (v : Byte) :
    (s.afterWrite b v).mem = if s.kindAt b = .ram then s.mem.store (s.cellOf b) v else s.mem := by
  unfold State.afterWrite; split <;> rfl

@[simp] theorem State.holdMask_a (s : State) (b : Bool) : (s.holdMask b).a = s.a := by
  unfold State.holdMask; split <;> rfl
@[simp] theorem State.holdMask_x (s : State) (b : Bool) : (s.holdMask b).x = s.x := by
  unfold State.holdMask; split <;> rfl
@[simp] theorem State.holdMask_y (s : State) (b : Bool) : (s.holdMask b).y = s.y := by
  unfold State.holdMask; split <;> rfl
@[simp] theorem State.holdMask_sp (s : State) (b : Bool) : (s.holdMask b).sp = s.sp := by
  unfold State.holdMask; split <;> rfl
@[simp] theorem State.holdMask_pc (s : State) (b : Bool) : (s.holdMask b).pc = s.pc := by
  unfold State.holdMask; split <;> rfl
@[simp] theorem State.holdMask_p (s : State) (b : Bool) : (s.holdMask b).p = s.p := by
  unfold State.holdMask; split <;> rfl
@[simp] theorem State.holdMask_nmiPending (s : State) (b : Bool) : (s.holdMask b).nmiPending = s.nmiPending := by
  unfold State.holdMask; split <;> rfl
@[simp] theorem State.holdMask_mem (s : State) (b : Bool) : (s.holdMask b).mem = s.mem := by
  unfold State.holdMask; split <;> rfl
@[simp] theorem State.holdMask_sys (s : State) (b : Bool) : (s.holdMask b).sys = s.sys := by
  unfold State.holdMask; split <;> rfl
@[simp] theorem State.holdMask_inputs (s : State) (b : Bool) : (s.holdMask b).inputs = s.inputs := by
  unfold State.holdMask; split <;> rfl
@[simp] theorem State.holdMask_draws (s : State) (b : Bool) : (s.holdMask b).draws = s.draws := by
  unfold State.holdMask; split <;> rfl
@[simp] theorem State.holdMask_bus (s : State) (b : Bool) : (s.holdMask b).bus = s.bus := by
  unfold State.holdMask; split <;> rfl
@[simp] theorem State.holdMask_heldMask (s : State) (b : Bool) :
    (s.holdMask b).heldMask = if s.sys.iLatency = .oneInstruction then some b else s.heldMask := by
  unfold State.holdMask; cases h : s.sys.iLatency <;> simp

@[simp] theorem Flags.setNZ_n (f : Flags) (b : Byte) : (f.setNZ b).n = b.getLsbD 7 := rfl
@[simp] theorem Flags.setNZ_v (f : Flags) (b : Byte) : (f.setNZ b).v = f.v := rfl
@[simp] theorem Flags.setNZ_d (f : Flags) (b : Byte) : (f.setNZ b).d = f.d := rfl
@[simp] theorem Flags.setNZ_i (f : Flags) (b : Byte) : (f.setNZ b).i = f.i := rfl
@[simp] theorem Flags.setNZ_z (f : Flags) (b : Byte) : (f.setNZ b).z = (b == 0) := rfl
@[simp] theorem Flags.setNZ_c (f : Flags) (b : Byte) : (f.setNZ b).c = f.c := rfl

@[simp] theorem flagsOf_n (b : Byte) : (flagsOf b).n = b.getLsbD 7 := rfl
@[simp] theorem flagsOf_v (b : Byte) : (flagsOf b).v = b.getLsbD 6 := rfl
@[simp] theorem flagsOf_d (b : Byte) : (flagsOf b).d = b.getLsbD 3 := rfl
@[simp] theorem flagsOf_i (b : Byte) : (flagsOf b).i = b.getLsbD 2 := rfl
@[simp] theorem flagsOf_z (b : Byte) : (flagsOf b).z = b.getLsbD 1 := rfl
@[simp] theorem flagsOf_c (b : Byte) : (flagsOf b).c = b.getLsbD 0 := rfl

/-! ## The map functions see only the parameters, the cells only the parameters and the memory -/

theorem State.kindAt_congr {s t : State} (h : t.sys = s.sys) (a : Addr) : t.kindAt a = s.kindAt a := by
  unfold State.kindAt; rw [h]

theorem State.cellOf_congr {s t : State} (h : t.sys = s.sys) (a : Addr) : t.cellOf a = s.cellOf a := by
  unfold State.cellOf; rw [h]

theorem State.readable_congr {s t : State} (h : t.sys = s.sys) (a : Addr) : t.readable a = s.readable a := by
  unfold State.readable; rw [State.kindAt_congr h]

theorem State.plain_congr {s t : State} (h : t.sys = s.sys) (a : Addr) : t.plain a = s.plain a := by
  unfold State.plain; rw [State.kindAt_congr h]

theorem State.writable_congr {s t : State} (h : t.sys = s.sys) (a : Addr) : t.writable a = s.writable a := by
  unfold State.writable; rw [State.kindAt_congr h]

theorem State.byteAt_congr {s t : State} (h : t.sys = s.sys) (hm : t.mem = s.mem) (a : Addr) : t.byteAt a = s.byteAt a := by
  unfold State.byteAt; rw [State.cellOf_congr h, hm]

/-- A read of RAM or ROM returns the byte of the cell. -/
theorem State.readValue_of_plain {s : State} {a : Addr} (h : s.plain a = true) : s.readValue a = s.byteAt a := by
  unfold State.readValue
  split
  · rename_i hk; simp [State.plain, hk] at h
  · rfl

/-- RAM and ROM can be read. -/
theorem State.readable_of_plain {s : State} {a : Addr} (h : s.plain a = true) : s.readable a = true := by
  cases hk : s.kindAt a <;> simp_all [State.plain, State.readable]

end Sys2Proof.Machine
end

