-- ==== Sys2Proof/Laws/Ops.lean ====
section
/-! SUPPORT. What each shared operation can do, said once: "it answers next t exactly when …". -/

namespace Sys2Proof.Machine

/-! ## Sequencing -/

section
variable {α β : Type}

@[simp] theorem andThen_next (x : α) (f : α → Host.Outcome β Fault Refusal) : andThen (.next x) f = f x := rfl

@[simp] theorem andThen_refused (r : Refusal) (f : α → Host.Outcome β Fault Refusal) :
    andThen (.refused r) f = .refused r := rfl

theorem andThen_eq_next {o : Host.Outcome α Fault Refusal} {f : α → Host.Outcome β Fault Refusal} {y : β} :
    andThen o f = .next y ↔ ∃ x, o = .next x ∧ f x = .next y := by
  cases o <;> simp [andThen]

theorem andThen_eq_refused {o : Host.Outcome α Fault Refusal} {f : α → Host.Outcome β Fault Refusal} {r : Refusal} :
    andThen o f = .refused r ↔ o = .refused r ∨ ∃ x, o = .next x ∧ f x = .refused r := by
  cases o <;> simp [andThen]

end

/-! ## Byte accesses -/

theorem readByte_ready {a : Addr} {s : State} (h : s.readable a = true) :
    readByte a s = .next (s.readValue a, s.afterRead a) := by
  simp [readByte, h]

/-- A read answers exactly when something is at the address; then it records itself and changes nothing else. -/
theorem readByte_eq_next {a : Addr} {s t : State} {v : Byte} :
    readByte a s = .next (v, t) ↔ s.readable a = true ∧ v = s.readValue a ∧ t = s.afterRead a := by
  unfold readByte
  split
  · rename_i h
    simp only [Host.Outcome.next.injEq, Prod.mk.injEq, h, true_and]
    exact ⟨fun e => ⟨e.1.symm, e.2.symm⟩, fun e => ⟨e.1.symm, e.2.symm⟩⟩
  · simp_all

theorem writeByte_ready {a : Addr} {v : Byte} {s : State} (h : s.writable a = true) :
    writeByte a v s = .next (s.afterWrite a v) := by
  simp [writeByte, h]

/-- A write answers exactly when `MEM` defines it. -/
theorem writeByte_eq_next {a : Addr} {v : Byte} {s t : State} :
    writeByte a v s = .next t ↔ s.writable a = true ∧ t = s.afterWrite a v := by
  unfold writeByte
  split
  · rename_i h
    simp only [Host.Outcome.next.injEq, h, true_and]
    exact eq_comm
  · split <;> simp_all

/-- RAM holds the byte written. -/
theorem byteAt_afterWrite_same {s : State} {a : Addr} (h : s.kindAt a = .ram) (v : Byte) :
    (s.afterWrite a v).byteAt a = v := by
  unfold State.byteAt
  rw [State.cellOf_congr (State.afterWrite_sys s a v), State.afterWrite_mem, if_pos h, Memory.byteAt_store_same]

/-- Every cell but the written one is left alone. -/
theorem byteAt_afterWrite_other {s : State} {a b : Addr} (h : s.cellOf b ≠ s.cellOf a) (v : Byte) :
    (s.afterWrite a v).byteAt b = s.byteAt b := by
  unfold State.byteAt
  rw [State.cellOf_congr (State.afterWrite_sys s a v), State.afterWrite_mem]
  split
  · exact Memory.byteAt_store_other _ h v
  · rfl

@[simp] theorem byteAt_afterRead (s : State) (a b : Addr) : (s.afterRead a).byteAt b = s.byteAt b := rfl

theorem wf_mem_afterWrite {s : State} (h : s.mem.wf = true) (a : Addr) (v : Byte) : (s.afterWrite a v).mem.wf = true := by
  rw [State.afterWrite_mem]; split
  · exact Memory.wf_store h _ _
  · exact h

/-! ## Two bytes -/

/-- A 2-byte read answers exactly when both bytes can be read. -/
theorem readPair_eq_next {p q : Addr} {s t : State} {w : Addr} :
    readPair p q s = .next (w, t) ↔ s.readable p = true ∧ s.readable q = true ∧
      w = wordOf (s.readValue p) ((s.afterRead p).readValue q) ∧ t = (s.afterRead p).afterRead q := by
  unfold readPair
  simp only [andThen_eq_next, Prod.exists, readByte_eq_next, Host.Outcome.next.injEq, Prod.mk.injEq]
  constructor
  · rintro ⟨l, u, ⟨h1, rfl, rfl⟩, h, v, ⟨h2, rfl, rfl⟩, rfl, rfl⟩
    exact ⟨h1, h2, rfl, rfl⟩
  · rintro ⟨h1, h2, rfl, rfl⟩
    exact ⟨_, _, ⟨h1, rfl, rfl⟩, _, _, ⟨h2, rfl, rfl⟩, rfl, rfl⟩

/-! ## The stack -/

/-- A push answers exactly when its stack byte can be written. -/
theorem push_eq_next {v : Byte} {s t : State} :
    push v s = .next t ↔ s.writable (stackAddr s.sys.stackPage s.sp) = true ∧
      t = (s.afterWrite (stackAddr s.sys.stackPage s.sp) v).setSp (s.sp - 1) := by
  unfold push
  simp only [andThen_eq_next, writeByte_eq_next, Host.Outcome.next.injEq]
  constructor
  · rintro ⟨u, ⟨h, rfl⟩, rfl⟩; exact ⟨h, by simp⟩
  · rintro ⟨h, rfl⟩; exact ⟨_, ⟨h, rfl⟩, by simp⟩

/-- A pull answers exactly when its stack byte can be read. -/
theorem pull_eq_next {s t : State} {v : Byte} :
    pull s = .next (v, t) ↔ s.readable (stackAddr s.sys.stackPage (s.sp + 1)) = true ∧
      v = s.readValue (stackAddr s.sys.stackPage (s.sp + 1)) ∧ t = (s.setSp (s.sp + 1)).afterRead (stackAddr s.sys.stackPage (s.sp + 1)) := by
  unfold pull
  rw [readByte_eq_next]
  exact Iff.rfl

/-- Pushing a word writes its high byte, then its low byte below it. -/
theorem pushWord_eq_next {w : Addr} {s t : State} :
    pushWord w s = .next t ↔ s.writable (stackAddr s.sys.stackPage s.sp) = true ∧ s.writable (stackAddr s.sys.stackPage (s.sp - 1)) = true ∧
      t = ((((s.afterWrite (stackAddr s.sys.stackPage s.sp) (highByte w)).setSp (s.sp - 1)).afterWrite (stackAddr s.sys.stackPage (s.sp - 1))
        (lowByte w)).setSp (s.sp - 1 - 1)) := by
  unfold pushWord
  simp only [andThen_eq_next, push_eq_next]
  constructor
  · rintro ⟨u, ⟨h1, rfl⟩, h2, rfl⟩
    simp only [State.setSp_sys, State.afterWrite_sys, State.setSp_sp] at h2 ⊢
    exact ⟨h1, by rw [← h2]; exact (State.writable_congr (by simp) _).symm, trivial⟩
  · rintro ⟨h1, h2, rfl⟩
    refine ⟨_, ⟨h1, rfl⟩, ?_, by simp only [State.setSp_sys, State.afterWrite_sys, State.setSp_sp]⟩
    simp only [State.setSp_sys, State.afterWrite_sys, State.setSp_sp]
    rw [← h2]; exact State.writable_congr (by simp) _

/-- Pulling a word reads its low byte, then its high byte above it. -/
theorem pullWord_eq_next {s t : State} {w : Addr} :
    pullWord s = .next (w, t) ↔ s.readable (stackAddr s.sys.stackPage (s.sp + 1)) = true ∧ s.readable (stackAddr s.sys.stackPage (s.sp + 1 + 1)) = true ∧
      w = wordOf (s.readValue (stackAddr s.sys.stackPage (s.sp + 1)))
        (((s.setSp (s.sp + 1)).afterRead (stackAddr s.sys.stackPage (s.sp + 1))).readValue (stackAddr s.sys.stackPage (s.sp + 1 + 1))) ∧
      t = ((((s.setSp (s.sp + 1)).afterRead (stackAddr s.sys.stackPage (s.sp + 1))).setSp (s.sp + 1 + 1)).afterRead
        (stackAddr s.sys.stackPage (s.sp + 1 + 1))) := by
  unfold pullWord
  simp only [andThen_eq_next, Prod.exists, pull_eq_next, Host.Outcome.next.injEq, Prod.mk.injEq]
  constructor
  · rintro ⟨l, u, ⟨h1, rfl, rfl⟩, h, u, ⟨h2, rfl, rfl⟩, rfl, rfl⟩
    exact ⟨h1, h2, rfl, rfl⟩
  · rintro ⟨h1, h2, rfl, rfl⟩
    exact ⟨_, _, ⟨h1, rfl, rfl⟩, _, _, ⟨h2, rfl, rfl⟩, rfl, rfl⟩

/-! ## Status, vectors, interrupts -/

/-- The draws of a pushed status byte are the only thing `afterStatusByte` counts. -/
theorem afterStatusByte_eq (s : State) : afterStatusByte s = s.setDraws (afterStatusByte s).draws := by
  unfold afterStatusByte; split <;> rfl

@[simp] theorem afterStatusByte_sys (s : State) : (afterStatusByte s).sys = s.sys := by rw [afterStatusByte_eq]; rfl
@[simp] theorem afterStatusByte_sp (s : State) : (afterStatusByte s).sp = s.sp := by rw [afterStatusByte_eq]; rfl
@[simp] theorem afterStatusByte_mem (s : State) : (afterStatusByte s).mem = s.mem := by rw [afterStatusByte_eq]; rfl
@[simp] theorem afterStatusByte_p (s : State) : (afterStatusByte s).p = s.p := by rw [afterStatusByte_eq]; rfl
@[simp] theorem afterStatusByte_pc (s : State) : (afterStatusByte s).pc = s.pc := by rw [afterStatusByte_eq]; rfl

/-- Pushing P is a push of its byte. -/
theorem pushStatus_eq_next {who : Pusher} {s t : State} :
    pushStatus who s = .next t ↔ s.writable (stackAddr s.sys.stackPage s.sp) = true ∧
      t = ((afterStatusByte s).afterWrite (stackAddr s.sys.stackPage s.sp) (statusByte who s)).setSp (s.sp - 1) := by
  unfold pushStatus
  rw [push_eq_next, afterStatusByte_sp, afterStatusByte_sys, State.writable_congr (afterStatusByte_sys s)]

/-- A jump through a vector sets PC to its content and changes nothing else but the record. -/
theorem jumpVia_eq_next {vec : Addr} {s t : State} :
    jumpVia vec s = .next t ↔ s.readable vec = true ∧ s.readable (vec + 1) = true ∧
      t = ((s.afterRead vec).afterRead (vec + 1)).setPc
        (wordOf (s.readValue vec) ((s.afterRead vec).readValue (vec + 1))) := by
  unfold jumpVia read16
  simp only [andThen_eq_next, Prod.exists, readPair_eq_next, Host.Outcome.next.injEq]
  constructor
  · rintro ⟨w, u, ⟨h1, h2, rfl, rfl⟩, rfl⟩; exact ⟨h1, h2, rfl⟩
  · rintro ⟨h1, h2, rfl⟩; exact ⟨_, _, ⟨h1, h2, rfl, rfl⟩, rfl⟩

/-- The entry sequence is a push of the word, a push of P and a jump through the vector, with I set between. -/
theorem enterInterrupt_eq_next {vec w : Addr} {who : Pusher} {s t : State} :
    enterInterrupt vec w who s = .next t ↔ ∃ u v, pushWord w s = .next u ∧ pushStatus who u = .next v ∧
      jumpVia vec (v.setP { v.p with i := true }) = .next t := by
  unfold enterInterrupt
  simp only [andThen_eq_next]
  constructor
  · rintro ⟨u, hu, v, hv, ht⟩; exact ⟨u, v, hu, hv, ht⟩
  · rintro ⟨u, v, hu, hv, ht⟩; exact ⟨u, hu, v, hv, ht⟩

/-- The return is a pull of P and a pull of PC. -/
theorem returnFromInterrupt_eq_next {s t : State} :
    returnFromInterrupt s = .next t ↔ ∃ b u w v, pull s = .next (b, u) ∧
      pullWord (u.setP (flagsOf b)) = .next (w, v) ∧ t = v.setPc w := by
  unfold returnFromInterrupt
  simp only [andThen_eq_next, Prod.exists, Host.Outcome.next.injEq]
  constructor
  · rintro ⟨b, u, h1, w, v, h2, rfl⟩; exact ⟨b, u, w, v, h1, h2, rfl⟩
  · rintro ⟨b, u, w, v, h1, h2, rfl⟩; exact ⟨b, u, h1, w, v, h2, rfl⟩

/-- A reset is a jump through the RES vector from the redrawn registers. -/
theorem takeReset_eq_next {s t : State} : takeReset s = .next t ↔ jumpVia resVector s.redrawn = .next t := Iff.rfl

/-- What a reset leaves, field by field: the parameters, memory, PC, the inputs and the record are kept. -/
theorem redrawn_eq (s : State) : s.redrawn = { s with
    a := Config.drawByte s.draws, x := Config.drawByte (s.draws + 1), y := Config.drawByte (s.draws + 2)
    sp := Config.drawByte (s.draws + 3)
    p := { n := Config.drawBit (s.draws + 4), v := Config.drawBit (s.draws + 5), d := Config.drawBit (s.draws + 6),
           i := true, z := Config.drawBit (s.draws + 7), c := Config.drawBit (s.draws + 8) }
    nmiPending := false, heldMask := none, draws := s.draws + 9 } := by
  unfold State.redrawn; cases s.sys.resetState; rfl

/-! ## RAM left unspecified (R261) -/

theorem Memory.redraw_zero (map : List Region) (first : Nat) (m : Memory) : m.redraw map first 0 = m := by
  rw [Memory.redraw]

theorem Memory.redraw_succ_ram {map : List Region} {n : Nat} (h : (locate map (BitVec.ofNat 16 n)).1 = .ram) (first : Nat)
    (m : Memory) : m.redraw map first (n + 1) =
      (m.store (locate map (BitVec.ofNat 16 n)).2 (Config.drawByte (first + n))).redraw map first n := by
  rw [Memory.redraw, if_pos h]

theorem Memory.redraw_succ_other {map : List Region} {n : Nat} (h : (locate map (BitVec.ofNat 16 n)).1 ≠ .ram) (first : Nat)
    (m : Memory) : m.redraw map first (n + 1) = m.redraw map first n := by
  rw [Memory.redraw, if_neg h]

/-- The draws are stored as any byte is, so the canonical form is kept. -/
theorem Memory.wf_redraw {m : Memory} (h : m.wf = true) (map : List Region) (first n : Nat) : (m.redraw map first n).wf = true := by
  induction n generalizing m with
  | zero => rwa [Memory.redraw_zero]
  | succ n ih =>
    by_cases hk : (locate map (BitVec.ofNat 16 n)).1 = .ram
    · rw [Memory.redraw_succ_ram hk]; exact ih (Memory.wf_store h _ _)
    · rw [Memory.redraw_succ_other hk]; exact ih h

/-- A cell that no RAM address selects keeps its byte. -/
theorem Memory.byteAt_redraw_other (m : Memory) (map : List Region) (first n : Nat) {cell : Addr}
    (h : ∀ b : Addr, (locate map b).1 = .ram → (locate map b).2 ≠ cell) : (m.redraw map first n).byteAt cell = m.byteAt cell := by
  induction n generalizing m with
  | zero => rw [Memory.redraw_zero]
  | succ n ih =>
    by_cases hk : (locate map (BitVec.ofNat 16 n)).1 = .ram
    · rw [Memory.redraw_succ_ram hk, ih, Memory.byteAt_store_other _ (h _ hk).symm]
    · rw [Memory.redraw_succ_other hk, ih]

/-- A cell that holds one of the draws keeps holding one of them. -/
theorem Memory.byteAt_redraw_draw {m : Memory} (map : List Region) (first n : Nat) {cell : Addr} {hi : Nat} (hn : n ≤ hi)
    (h : ∃ j, first ≤ j ∧ j < first + hi ∧ m.byteAt cell = Config.drawByte j) :
    ∃ j, first ≤ j ∧ j < first + hi ∧ (m.redraw map first n).byteAt cell = Config.drawByte j := by
  induction n generalizing m with
  | zero => rwa [Memory.redraw_zero]
  | succ n ih =>
    by_cases hk : (locate map (BitVec.ofNat 16 n)).1 = .ram
    · rw [Memory.redraw_succ_ram hk]
      refine ih (by omega) ?_
      by_cases hc : cell = (locate map (BitVec.ofNat 16 n)).2
      · exact ⟨first + n, by omega, by omega, by rw [hc, Memory.byteAt_store_same]⟩
      · rw [Memory.byteAt_store_other _ hc]; exact h
    · rw [Memory.redraw_succ_other hk]; exact ih (by omega) h

/-- The cell of every RAM address below n holds a draw. -/
theorem Memory.byteAt_redraw_ram (m : Memory) (map : List Region) (first n : Nat) {a : Addr} (ha : a.toNat < n)
    (hk : (locate map a).1 = .ram) :
    ∃ j, first ≤ j ∧ j < first + n ∧ (m.redraw map first n).byteAt (locate map a).2 = Config.drawByte j := by
  induction n generalizing m with
  | zero => omega
  | succ n ih =>
    by_cases h : a.toNat = n
    · have e : BitVec.ofNat 16 n = a := by apply BitVec.eq_of_toNat_eq; rw [← h]; simp
      rw [Memory.redraw_succ_ram (by rw [e]; exact hk), e]
      exact Memory.byteAt_redraw_draw map first n (Nat.le_succ n) ⟨first + n, by omega, by omega, Memory.byteAt_store_same _ _ _⟩
    · by_cases hn : (locate map (BitVec.ofNat 16 n)).1 = .ram
      · rw [Memory.redraw_succ_ram hn]
        obtain ⟨j, h1, h2, h3⟩ := ih (m.store (locate map (BitVec.ofNat 16 n)).2 (Config.drawByte (first + n))) (by omega)
        exact ⟨j, h1, by omega, h3⟩
      · rw [Memory.redraw_succ_other hn]
        obtain ⟨j, h1, h2, h3⟩ := ih m (by omega)
        exact ⟨j, h1, by omega, h3⟩

@[simp] theorem redrawRam_sys (s : State) : s.redrawRam.sys = s.sys := rfl
@[simp] theorem redrawRam_mem (s : State) : s.redrawRam.mem = s.mem.redraw s.sys.map s.draws 0x10000 := rfl
@[simp] theorem redrawRam_bus (s : State) : s.redrawRam.bus = s.bus := rfl
@[simp] theorem redrawRam_inputs (s : State) : s.redrawRam.inputs = s.inputs := rfl
@[simp] theorem redrawRam_draws (s : State) : s.redrawRam.draws = s.draws + 0x10000 := rfl

/-- A stack address of the spec's page in the words of R49: `$0100 + S`. -/
theorem stackAddr_page_one (sp : Byte) : stackAddr 0x01 sp = 0x0100 + zext16 sp := by
  revert sp; decide +kernel

end Sys2Proof.Machine
end

