-- ==== Sys2Proof/Laws/Boundary.lean ====
section
/-! SUPPORT. What each kind of step is, said once: which inputs make which event, and what a step does at it. -/

namespace Sys2Proof.Machine

/-- The pin S.O. changes no flag (R22, D21). -/
@[simp] theorem flagsAtPin_eq (s : State) : s.flagsAtPin = s.p := by
  unfold State.flagsAtPin; cases s.sys.soEvents; rfl

/-- An unlisted opcode is refused (R93). -/
@[simp] theorem unlisted_eq {α : Type} (treatment : UndocOpcode) (op : Byte) :
    (unlisted treatment op : Host.Outcome α Fault Refusal) = .refused (.unlistedOpcode op) := by
  cases treatment; rfl

/-- The boundary uses up its inputs, latches an NMI edge and lets go of a held mask, and nothing else. -/
theorem atBoundary_eq (s : State) :
    atBoundary s = { s with inputs := s.inputs.tail, nmiPending := s.nmiSeen, heldMask := none } := by
  unfold atBoundary; rw [flagsAtPin_eq]

theorem event_eq_reset {s : State} : event s = .reset ↔ s.now.res = .boundary := by
  unfold event; split <;> (try split) <;> (try split) <;> simp_all

theorem event_eq_resetInside {s : State} : event s = .resetInside ↔ s.now.res = .inside := by
  unfold event; split <;> (try split) <;> (try split) <;> simp_all

theorem event_eq_nmi {s : State} : event s = .nmi ↔ s.now.res = .none ∧ s.nmiSeen = true := by
  unfold event; split <;> (try split) <;> (try split) <;> simp_all

theorem event_eq_irq {s : State} :
    event s = .irq ↔ s.now.res = .none ∧ s.nmiSeen = false ∧ s.now.irq = true ∧ s.irqMask = false := by
  unfold event; split <;> (try split) <;> (try split) <;> simp_all

theorem event_eq_instruction {s : State} :
    event s = .instruction ↔ s.now.res = .none ∧ s.nmiSeen = false ∧ (s.now.irq = true → s.irqMask = true) := by
  unfold event; split <;> (try split) <;> (try split) <;> simp_all

/-- What a step is, event by event (R223). -/
theorem step_eq (s : State) : step s =
    match event s with
    | .reset => jumpVia resVector (atBoundary s).redrawn
    | .resetInside => jumpVia resVector (atBoundary s).redrawRam.redrawn
    | .nmi => enterInterrupt nmiVector s.pc .interrupt ((atBoundary s).setNmiPending false)
    | .irq => enterInterrupt irqVector s.pc .interrupt (atBoundary s)
    | .instruction => andThen (fetch (atBoundary s)) fun r => exec r.1 r.2 := by
  unfold step; cases event s <;> rfl

end Sys2Proof.Machine
end

