-- ==== Sys2Proof/Laws/Operands.lean ====
section
/-! SUPPORT. The operand forms in closed form, and what each of the three classes of R61 can do. -/

namespace Sys2Proof.Machine

/-! ## Pointers -/

/-- A pointer is read exactly when it is readable. -/
theorem readPointer_eq_next {p : Addr} {s t : State} {w : Addr} :
    readPointer p s = .next (w, t) ↔ s.pointerReadable p = true ∧ w = s.pointerValue p ∧ t = s.afterPointer p := by
  unfold readPointer State.pointerReadable State.pointerValue State.afterPointer
  split
  · simp
  · simp [readPair_eq_next, and_assoc]

@[simp] theorem afterPointer_sys (s : State) (p : Addr) : (s.afterPointer p).sys = s.sys := by
  unfold State.afterPointer; split <;> rfl
@[simp] theorem afterPointer_mem (s : State) (p : Addr) : (s.afterPointer p).mem = s.mem := by
  unfold State.afterPointer; split <;> rfl

/-- Reading a pointer changes nothing but the record. -/
theorem afterPointer_eq (s : State) (p : Addr) : s.afterPointer p = { s with bus := (s.afterPointer p).bus } := by
  unfold State.afterPointer; split <;> rfl

/-! ## The effective address -/

/-- The effective address is formed exactly when it is reachable. -/
theorem locate_eq_next {p : Place} {s t : State} {ea : Addr} :
    p.locate s = .next (ea, t) ↔ p.reachable s = true ∧ ea = p.address s ∧ t = p.settled s := by
  cases p <;> simp only [Place.locate, Place.reachable, Place.address, Place.settled, readPointer_eq_next, andThen_eq_next,
    Prod.exists, Host.Outcome.next.injEq, Prod.mk.injEq, true_and]
  case indY =>
    constructor
    · rintro ⟨w, u, ⟨h, rfl, rfl⟩, rfl, rfl⟩; exact ⟨h, rfl, rfl⟩
    · rintro ⟨h, rfl, rfl⟩; exact ⟨_, _, ⟨h, rfl, rfl⟩, rfl, rfl⟩
  all_goals exact ⟨fun e => ⟨e.1.symm, e.2.symm⟩, fun e => ⟨e.1.symm, e.2.symm⟩⟩

theorem locate_ready {p : Place} {s : State} (h : p.reachable s = true) : p.locate s = .next (p.address s, p.settled s) :=
  locate_eq_next.mpr ⟨h, rfl, rfl⟩

/-- Forming the effective address changes nothing but the record. -/
theorem settled_eq (p : Place) (s : State) : p.settled s = { s with bus := (p.settled s).bus } := by
  cases p <;> first | rfl | exact afterPointer_eq _ _

@[simp] theorem settled_sys (p : Place) (s : State) : (p.settled s).sys = s.sys := by rw [settled_eq]
@[simp] theorem settled_mem (p : Place) (s : State) : (p.settled s).mem = s.mem := by rw [settled_eq]
@[simp] theorem settled_p (p : Place) (s : State) : (p.settled s).p = s.p := by rw [settled_eq]
@[simp] theorem settled_pc (p : Place) (s : State) : (p.settled s).pc = s.pc := by rw [settled_eq]

/-! ## `DATA` -/

/-- `DATA` is read exactly when it is ready. -/
theorem load_eq_next {o : Operand} {s t : State} {v : Byte} :
    o.load s = .next (v, t) ↔ o.ready s = true ∧ v = o.data s ∧ t = o.fetched s := by
  cases o with
  | memory p =>
    simp only [Operand.load, Operand.ready, Operand.data, Operand.fetched, andThen_eq_next, Prod.exists, locate_eq_next,
      readByte_eq_next, Bool.and_eq_true]
    constructor
    · rintro ⟨ea, u, ⟨h1, rfl, rfl⟩, h2, rfl, rfl⟩
      exact ⟨⟨h1, by rw [← h2]; exact (State.readable_congr (settled_sys p s) _).symm⟩, rfl, rfl⟩
    · rintro ⟨⟨h1, h2⟩, rfl, rfl⟩
      exact ⟨_, _, ⟨h1, rfl, rfl⟩, by rw [← h2]; exact State.readable_congr (settled_sys p s) _, rfl, rfl⟩
  | immediate n =>
    simp only [Operand.load, Operand.ready, Operand.data, Operand.fetched, Host.Outcome.next.injEq, Prod.mk.injEq, true_and]
    exact ⟨fun e => ⟨e.1.symm, e.2.symm⟩, fun e => ⟨e.1.symm, e.2.symm⟩⟩
  | accumulator =>
    simp only [Operand.load, Operand.ready, Operand.data, Operand.fetched, Host.Outcome.next.injEq, Prod.mk.injEq, true_and]
    exact ⟨fun e => ⟨e.1.symm, e.2.symm⟩, fun e => ⟨e.1.symm, e.2.symm⟩⟩

theorem load_ready {o : Operand} {s : State} (h : o.ready s = true) : o.load s = .next (o.data s, o.fetched s) :=
  load_eq_next.mpr ⟨h, rfl, rfl⟩

/-- Reading `DATA` changes nothing but the record. -/
theorem fetched_eq (o : Operand) (s : State) : o.fetched s = { s with bus := (o.fetched s).bus } := by
  cases o with
  | memory p =>
    have key : ∀ l, ({ p.settled s with bus := l } : State) = { s with bus := l } := fun l => by rw [settled_eq p s]
    exact key _
  | immediate n => rfl
  | accumulator => rfl

/-! ## The classes -/

/-- An instruction of the reading class answers exactly when its operand is ready. -/
theorem readClass_eq_next {o : Operand} {e : Byte → State → State} {s t : State} :
    readClass o e s = .next t ↔ o.ready s = true ∧ t = (e (o.data s) (o.fetched s)).advance o.length := by
  unfold readClass
  simp only [andThen_eq_next, Prod.exists, load_eq_next, Host.Outcome.next.injEq]
  constructor
  · rintro ⟨v, u, ⟨h, rfl, rfl⟩, rfl⟩; exact ⟨h, rfl⟩
  · rintro ⟨h, rfl⟩; exact ⟨_, _, ⟨h, rfl, rfl⟩, rfl⟩

/-- An instruction of the storing class answers exactly when its address is reachable and can be written. -/
theorem storeClass_eq_next {p : Place} {v : Byte} {s t : State} :
    storeClass p v s = .next t ↔ p.reachable s = true ∧ s.writable (p.address s) = true ∧
      t = ((p.settled s).afterWrite (p.address s) v).advance p.length := by
  have hw := State.writable_congr (settled_sys p s) (p.address s)
  unfold storeClass
  simp only [andThen_eq_next, Prod.exists, locate_eq_next, writeByte_eq_next, Host.Outcome.next.injEq]
  constructor
  · rintro ⟨ea, u, ⟨h, rfl, rfl⟩, w, ⟨h2, rfl⟩, rfl⟩; exact ⟨h, hw ▸ h2, rfl⟩
  · rintro ⟨h, h2, rfl⟩; exact ⟨_, _, ⟨h, rfl, rfl⟩, _, ⟨hw.symm ▸ h2, rfl⟩, rfl⟩

/-- An instruction of the modifying class answers exactly when its address is reachable and can be read and written. -/
theorem modifyClass_eq_next {p : Place} {f : Byte → Flags → Byte × Flags} {s t : State} :
    modifyClass p f s = .next t ↔
      p.reachable s = true ∧ s.readable (p.address s) = true ∧ s.writable (p.address s) = true ∧
      t = (((((p.settled s).afterRead (p.address s)).afterWrite (p.address s)
        (f ((p.settled s).readValue (p.address s)) s.p).1).setP
        (f ((p.settled s).readValue (p.address s)) s.p).2).advance p.length) := by
  have hr := State.readable_congr (settled_sys p s) (p.address s)
  have hw : ((p.settled s).afterRead (p.address s)).writable (p.address s) = s.writable (p.address s) :=
    State.writable_congr (settled_sys p s) _
  unfold modifyClass
  simp only [andThen_eq_next, Prod.exists, locate_eq_next, readByte_eq_next, writeByte_eq_next, Host.Outcome.next.injEq]
  constructor
  · rintro ⟨ea, u, ⟨h, rfl, rfl⟩, d, w, ⟨h1, rfl, rfl⟩, x, ⟨h2, rfl⟩, rfl⟩
    exact ⟨h, hr ▸ h1, hw ▸ h2, rfl⟩
  · rintro ⟨h, h1, h2, rfl⟩
    exact ⟨_, _, ⟨h, rfl, rfl⟩, _, _, ⟨hr.symm ▸ h1, rfl, rfl⟩, _, ⟨hw.symm ▸ h2, rfl⟩, rfl⟩

end Sys2Proof.Machine
end

