-- ==== Sys2Proof/Laws/Exec.lean ====
section
/-! SUPPORT. The dispatch arm by arm: what `exec` of each constructor is, true by rfl. A proof cites these, or the class of R61 that
the meaning is one line over, and never unfolds the 151 arms of `exec`. -/

namespace Sys2Proof.Machine

@[simp] theorem exec_adcImm (n : Byte) (s : State) : exec (.adcImm n) s = execAdcImm n s := rfl
@[simp] theorem exec_adcAbs (nn : Addr) (s : State) : exec (.adcAbs nn) s = execAdcAbs nn s := rfl
@[simp] theorem exec_adcZp (n : Byte) (s : State) : exec (.adcZp n) s = execAdcZp n s := rfl
@[simp] theorem exec_adcIndX (n : Byte) (s : State) : exec (.adcIndX n) s = execAdcIndX n s := rfl
@[simp] theorem exec_adcIndY (n : Byte) (s : State) : exec (.adcIndY n) s = execAdcIndY n s := rfl
@[simp] theorem exec_adcZpX (n : Byte) (s : State) : exec (.adcZpX n) s = execAdcZpX n s := rfl
@[simp] theorem exec_adcAbsX (nn : Addr) (s : State) : exec (.adcAbsX nn) s = execAdcAbsX nn s := rfl
@[simp] theorem exec_adcAbsY (nn : Addr) (s : State) : exec (.adcAbsY nn) s = execAdcAbsY nn s := rfl
@[simp] theorem exec_andImm (n : Byte) (s : State) : exec (.andImm n) s = execAndImm n s := rfl
@[simp] theorem exec_andAbs (nn : Addr) (s : State) : exec (.andAbs nn) s = execAndAbs nn s := rfl
@[simp] theorem exec_andZp (n : Byte) (s : State) : exec (.andZp n) s = execAndZp n s := rfl
@[simp] theorem exec_andIndX (n : Byte) (s : State) : exec (.andIndX n) s = execAndIndX n s := rfl
@[simp] theorem exec_andIndY (n : Byte) (s : State) : exec (.andIndY n) s = execAndIndY n s := rfl
@[simp] theorem exec_andZpX (n : Byte) (s : State) : exec (.andZpX n) s = execAndZpX n s := rfl
@[simp] theorem exec_andAbsX (nn : Addr) (s : State) : exec (.andAbsX nn) s = execAndAbsX nn s := rfl
@[simp] theorem exec_andAbsY (nn : Addr) (s : State) : exec (.andAbsY nn) s = execAndAbsY nn s := rfl
@[simp] theorem exec_aslAbs (nn : Addr) (s : State) : exec (.aslAbs nn) s = execAslAbs nn s := rfl
@[simp] theorem exec_aslZp (n : Byte) (s : State) : exec (.aslZp n) s = execAslZp n s := rfl
@[simp] theorem exec_aslAcc (s : State) : exec .aslAcc s = execAslAcc s := rfl
@[simp] theorem exec_aslZpX (n : Byte) (s : State) : exec (.aslZpX n) s = execAslZpX n s := rfl
@[simp] theorem exec_aslAbsX (nn : Addr) (s : State) : exec (.aslAbsX nn) s = execAslAbsX nn s := rfl
@[simp] theorem exec_bcc (n : Byte) (s : State) : exec (.bcc n) s = execBcc n s := rfl
@[simp] theorem exec_bcs (n : Byte) (s : State) : exec (.bcs n) s = execBcs n s := rfl
@[simp] theorem exec_beq (n : Byte) (s : State) : exec (.beq n) s = execBeq n s := rfl
@[simp] theorem exec_bne (n : Byte) (s : State) : exec (.bne n) s = execBne n s := rfl
@[simp] theorem exec_bmi (n : Byte) (s : State) : exec (.bmi n) s = execBmi n s := rfl
@[simp] theorem exec_bpl (n : Byte) (s : State) : exec (.bpl n) s = execBpl n s := rfl
@[simp] theorem exec_bvc (n : Byte) (s : State) : exec (.bvc n) s = execBvc n s := rfl
@[simp] theorem exec_bvs (n : Byte) (s : State) : exec (.bvs n) s = execBvs n s := rfl
@[simp] theorem exec_bitAbs (nn : Addr) (s : State) : exec (.bitAbs nn) s = execBitAbs nn s := rfl
@[simp] theorem exec_bitZp (n : Byte) (s : State) : exec (.bitZp n) s = execBitZp n s := rfl
@[simp] theorem exec_brk (s : State) : exec .brk s = execBrk s := rfl
@[simp] theorem exec_clc (s : State) : exec .clc s = execClc s := rfl
@[simp] theorem exec_cld (s : State) : exec .cld s = execCld s := rfl
@[simp] theorem exec_cli (s : State) : exec .cli s = execCli s := rfl
@[simp] theorem exec_clv (s : State) : exec .clv s = execClv s := rfl
@[simp] theorem exec_cmpImm (n : Byte) (s : State) : exec (.cmpImm n) s = execCmpImm n s := rfl
@[simp] theorem exec_cmpAbs (nn : Addr) (s : State) : exec (.cmpAbs nn) s = execCmpAbs nn s := rfl
@[simp] theorem exec_cmpZp (n : Byte) (s : State) : exec (.cmpZp n) s = execCmpZp n s := rfl
@[simp] theorem exec_cmpIndX (n : Byte) (s : State) : exec (.cmpIndX n) s = execCmpIndX n s := rfl
@[simp] theorem exec_cmpIndY (n : Byte) (s : State) : exec (.cmpIndY n) s = execCmpIndY n s := rfl
@[simp] theorem exec_cmpZpX (n : Byte) (s : State) : exec (.cmpZpX n) s = execCmpZpX n s := rfl
@[simp] theorem exec_cmpAbsX (nn : Addr) (s : State) : exec (.cmpAbsX nn) s = execCmpAbsX nn s := rfl
@[simp] theorem exec_cmpAbsY (nn : Addr) (s : State) : exec (.cmpAbsY nn) s = execCmpAbsY nn s := rfl
@[simp] theorem exec_cpxImm (n : Byte) (s : State) : exec (.cpxImm n) s = execCpxImm n s := rfl
@[simp] theorem exec_cpxAbs (nn : Addr) (s : State) : exec (.cpxAbs nn) s = execCpxAbs nn s := rfl
@[simp] theorem exec_cpxZp (n : Byte) (s : State) : exec (.cpxZp n) s = execCpxZp n s := rfl
@[simp] theorem exec_cpyImm (n : Byte) (s : State) : exec (.cpyImm n) s = execCpyImm n s := rfl
@[simp] theorem exec_cpyAbs (nn : Addr) (s : State) : exec (.cpyAbs nn) s = execCpyAbs nn s := rfl
@[simp] theorem exec_cpyZp (n : Byte) (s : State) : exec (.cpyZp n) s = execCpyZp n s := rfl
@[simp] theorem exec_decAbs (nn : Addr) (s : State) : exec (.decAbs nn) s = execDecAbs nn s := rfl
@[simp] theorem exec_decZp (n : Byte) (s : State) : exec (.decZp n) s = execDecZp n s := rfl
@[simp] theorem exec_decZpX (n : Byte) (s : State) : exec (.decZpX n) s = execDecZpX n s := rfl
@[simp] theorem exec_decAbsX (nn : Addr) (s : State) : exec (.decAbsX nn) s = execDecAbsX nn s := rfl
@[simp] theorem exec_dex (s : State) : exec .dex s = execDex s := rfl
@[simp] theorem exec_dey (s : State) : exec .dey s = execDey s := rfl
@[simp] theorem exec_eorImm (n : Byte) (s : State) : exec (.eorImm n) s = execEorImm n s := rfl
@[simp] theorem exec_eorAbs (nn : Addr) (s : State) : exec (.eorAbs nn) s = execEorAbs nn s := rfl
@[simp] theorem exec_eorZp (n : Byte) (s : State) : exec (.eorZp n) s = execEorZp n s := rfl
@[simp] theorem exec_eorIndX (n : Byte) (s : State) : exec (.eorIndX n) s = execEorIndX n s := rfl
@[simp] theorem exec_eorIndY (n : Byte) (s : State) : exec (.eorIndY n) s = execEorIndY n s := rfl
@[simp] theorem exec_eorZpX (n : Byte) (s : State) : exec (.eorZpX n) s = execEorZpX n s := rfl
@[simp] theorem exec_eorAbsX (nn : Addr) (s : State) : exec (.eorAbsX nn) s = execEorAbsX nn s := rfl
@[simp] theorem exec_eorAbsY (nn : Addr) (s : State) : exec (.eorAbsY nn) s = execEorAbsY nn s := rfl
@[simp] theorem exec_incAbs (nn : Addr) (s : State) : exec (.incAbs nn) s = execIncAbs nn s := rfl
@[simp] theorem exec_incZp (n : Byte) (s : State) : exec (.incZp n) s = execIncZp n s := rfl
@[simp] theorem exec_incZpX (n : Byte) (s : State) : exec (.incZpX n) s = execIncZpX n s := rfl
@[simp] theorem exec_incAbsX (nn : Addr) (s : State) : exec (.incAbsX nn) s = execIncAbsX nn s := rfl
@[simp] theorem exec_inx (s : State) : exec .inx s = execInx s := rfl
@[simp] theorem exec_iny (s : State) : exec .iny s = execIny s := rfl
@[simp] theorem exec_jmpAbs (nn : Addr) (s : State) : exec (.jmpAbs nn) s = execJmpAbs nn s := rfl
@[simp] theorem exec_jmpInd (nn : Addr) (s : State) : exec (.jmpInd nn) s = execJmpInd nn s := rfl
@[simp] theorem exec_jsrAbs (nn : Addr) (s : State) : exec (.jsrAbs nn) s = execJsrAbs nn s := rfl
@[simp] theorem exec_ldaImm (n : Byte) (s : State) : exec (.ldaImm n) s = execLdaImm n s := rfl
@[simp] theorem exec_ldaAbs (nn : Addr) (s : State) : exec (.ldaAbs nn) s = execLdaAbs nn s := rfl
@[simp] theorem exec_ldaZp (n : Byte) (s : State) : exec (.ldaZp n) s = execLdaZp n s := rfl
@[simp] theorem exec_ldaIndX (n : Byte) (s : State) : exec (.ldaIndX n) s = execLdaIndX n s := rfl
@[simp] theorem exec_ldaIndY (n : Byte) (s : State) : exec (.ldaIndY n) s = execLdaIndY n s := rfl
@[simp] theorem exec_ldaZpX (n : Byte) (s : State) : exec (.ldaZpX n) s = execLdaZpX n s := rfl
@[simp] theorem exec_ldaAbsX (nn : Addr) (s : State) : exec (.ldaAbsX nn) s = execLdaAbsX nn s := rfl
@[simp] theorem exec_ldaAbsY (nn : Addr) (s : State) : exec (.ldaAbsY nn) s = execLdaAbsY nn s := rfl
@[simp] theorem exec_ldxImm (n : Byte) (s : State) : exec (.ldxImm n) s = execLdxImm n s := rfl
@[simp] theorem exec_ldxAbs (nn : Addr) (s : State) : exec (.ldxAbs nn) s = execLdxAbs nn s := rfl
@[simp] theorem exec_ldxZp (n : Byte) (s : State) : exec (.ldxZp n) s = execLdxZp n s := rfl
@[simp] theorem exec_ldxAbsY (nn : Addr) (s : State) : exec (.ldxAbsY nn) s = execLdxAbsY nn s := rfl
@[simp] theorem exec_ldxZpY (n : Byte) (s : State) : exec (.ldxZpY n) s = execLdxZpY n s := rfl
@[simp] theorem exec_ldyImm (n : Byte) (s : State) : exec (.ldyImm n) s = execLdyImm n s := rfl
@[simp] theorem exec_ldyAbs (nn : Addr) (s : State) : exec (.ldyAbs nn) s = execLdyAbs nn s := rfl
@[simp] theorem exec_ldyZp (n : Byte) (s : State) : exec (.ldyZp n) s = execLdyZp n s := rfl
@[simp] theorem exec_ldyZpX (n : Byte) (s : State) : exec (.ldyZpX n) s = execLdyZpX n s := rfl
@[simp] theorem exec_ldyAbsX (nn : Addr) (s : State) : exec (.ldyAbsX nn) s = execLdyAbsX nn s := rfl
@[simp] theorem exec_lsrAbs (nn : Addr) (s : State) : exec (.lsrAbs nn) s = execLsrAbs nn s := rfl
@[simp] theorem exec_lsrZp (n : Byte) (s : State) : exec (.lsrZp n) s = execLsrZp n s := rfl
@[simp] theorem exec_lsrAcc (s : State) : exec .lsrAcc s = execLsrAcc s := rfl
@[simp] theorem exec_lsrZpX (n : Byte) (s : State) : exec (.lsrZpX n) s = execLsrZpX n s := rfl
@[simp] theorem exec_lsrAbsX (nn : Addr) (s : State) : exec (.lsrAbsX nn) s = execLsrAbsX nn s := rfl
@[simp] theorem exec_nop (s : State) : exec .nop s = execNop s := rfl
@[simp] theorem exec_oraImm (n : Byte) (s : State) : exec (.oraImm n) s = execOraImm n s := rfl
@[simp] theorem exec_oraAbs (nn : Addr) (s : State) : exec (.oraAbs nn) s = execOraAbs nn s := rfl
@[simp] theorem exec_oraZp (n : Byte) (s : State) : exec (.oraZp n) s = execOraZp n s := rfl
@[simp] theorem exec_oraIndX (n : Byte) (s : State) : exec (.oraIndX n) s = execOraIndX n s := rfl
@[simp] theorem exec_oraIndY (n : Byte) (s : State) : exec (.oraIndY n) s = execOraIndY n s := rfl
@[simp] theorem exec_oraZpX (n : Byte) (s : State) : exec (.oraZpX n) s = execOraZpX n s := rfl
@[simp] theorem exec_oraAbsX (nn : Addr) (s : State) : exec (.oraAbsX nn) s = execOraAbsX nn s := rfl
@[simp] theorem exec_oraAbsY (nn : Addr) (s : State) : exec (.oraAbsY nn) s = execOraAbsY nn s := rfl
@[simp] theorem exec_pha (s : State) : exec .pha s = execPha s := rfl
@[simp] theorem exec_php (s : State) : exec .php s = execPhp s := rfl
@[simp] theorem exec_pla (s : State) : exec .pla s = execPla s := rfl
@[simp] theorem exec_plp (s : State) : exec .plp s = execPlp s := rfl
@[simp] theorem exec_rolAbs (nn : Addr) (s : State) : exec (.rolAbs nn) s = execRolAbs nn s := rfl
@[simp] theorem exec_rolZp (n : Byte) (s : State) : exec (.rolZp n) s = execRolZp n s := rfl
@[simp] theorem exec_rolAcc (s : State) : exec .rolAcc s = execRolAcc s := rfl
@[simp] theorem exec_rolZpX (n : Byte) (s : State) : exec (.rolZpX n) s = execRolZpX n s := rfl
@[simp] theorem exec_rolAbsX (nn : Addr) (s : State) : exec (.rolAbsX nn) s = execRolAbsX nn s := rfl
@[simp] theorem exec_rorAbs (nn : Addr) (s : State) : exec (.rorAbs nn) s = execRorAbs nn s := rfl
@[simp] theorem exec_rorZp (n : Byte) (s : State) : exec (.rorZp n) s = execRorZp n s := rfl
@[simp] theorem exec_rorAcc (s : State) : exec .rorAcc s = execRorAcc s := rfl
@[simp] theorem exec_rorZpX (n : Byte) (s : State) : exec (.rorZpX n) s = execRorZpX n s := rfl
@[simp] theorem exec_rorAbsX (nn : Addr) (s : State) : exec (.rorAbsX nn) s = execRorAbsX nn s := rfl
@[simp] theorem exec_rti (s : State) : exec .rti s = execRti s := rfl
@[simp] theorem exec_rts (s : State) : exec .rts s = execRts s := rfl
@[simp] theorem exec_sbcImm (n : Byte) (s : State) : exec (.sbcImm n) s = execSbcImm n s := rfl
@[simp] theorem exec_sbcAbs (nn : Addr) (s : State) : exec (.sbcAbs nn) s = execSbcAbs nn s := rfl
@[simp] theorem exec_sbcZp (n : Byte) (s : State) : exec (.sbcZp n) s = execSbcZp n s := rfl
@[simp] theorem exec_sbcIndX (n : Byte) (s : State) : exec (.sbcIndX n) s = execSbcIndX n s := rfl
@[simp] theorem exec_sbcIndY (n : Byte) (s : State) : exec (.sbcIndY n) s = execSbcIndY n s := rfl
@[simp] theorem exec_sbcZpX (n : Byte) (s : State) : exec (.sbcZpX n) s = execSbcZpX n s := rfl
@[simp] theorem exec_sbcAbsX (nn : Addr) (s : State) : exec (.sbcAbsX nn) s = execSbcAbsX nn s := rfl
@[simp] theorem exec_sbcAbsY (nn : Addr) (s : State) : exec (.sbcAbsY nn) s = execSbcAbsY nn s := rfl
@[simp] theorem exec_sec (s : State) : exec .sec s = execSec s := rfl
@[simp] theorem exec_sed (s : State) : exec .sed s = execSed s := rfl
@[simp] theorem exec_sei (s : State) : exec .sei s = execSei s := rfl
@[simp] theorem exec_staAbs (nn : Addr) (s : State) : exec (.staAbs nn) s = execStaAbs nn s := rfl
@[simp] theorem exec_staZp (n : Byte) (s : State) : exec (.staZp n) s = execStaZp n s := rfl
@[simp] theorem exec_staIndX (n : Byte) (s : State) : exec (.staIndX n) s = execStaIndX n s := rfl
@[simp] theorem exec_staIndY (n : Byte) (s : State) : exec (.staIndY n) s = execStaIndY n s := rfl
@[simp] theorem exec_staZpX (n : Byte) (s : State) : exec (.staZpX n) s = execStaZpX n s := rfl
@[simp] theorem exec_staAbsX (nn : Addr) (s : State) : exec (.staAbsX nn) s = execStaAbsX nn s := rfl
@[simp] theorem exec_staAbsY (nn : Addr) (s : State) : exec (.staAbsY nn) s = execStaAbsY nn s := rfl
@[simp] theorem exec_stxAbs (nn : Addr) (s : State) : exec (.stxAbs nn) s = execStxAbs nn s := rfl
@[simp] theorem exec_stxZp (n : Byte) (s : State) : exec (.stxZp n) s = execStxZp n s := rfl
@[simp] theorem exec_stxZpY (n : Byte) (s : State) : exec (.stxZpY n) s = execStxZpY n s := rfl
@[simp] theorem exec_styAbs (nn : Addr) (s : State) : exec (.styAbs nn) s = execStyAbs nn s := rfl
@[simp] theorem exec_styZp (n : Byte) (s : State) : exec (.styZp n) s = execStyZp n s := rfl
@[simp] theorem exec_styZpX (n : Byte) (s : State) : exec (.styZpX n) s = execStyZpX n s := rfl
@[simp] theorem exec_tax (s : State) : exec .tax s = execTax s := rfl
@[simp] theorem exec_tay (s : State) : exec .tay s = execTay s := rfl
@[simp] theorem exec_tsx (s : State) : exec .tsx s = execTsx s := rfl
@[simp] theorem exec_txa (s : State) : exec .txa s = execTxa s := rfl
@[simp] theorem exec_txs (s : State) : exec .txs s = execTxs s := rfl
@[simp] theorem exec_tya (s : State) : exec .tya s = execTya s := rfl

/-- CLI, SEI and PLP change the held mask under `I_LATENCY` = one_instruction and nothing otherwise (R229). -/
theorem holdMask_eq (s : State) (before : Bool) :
    s.holdMask before = s.setHeldMask (if s.sys.iLatency = .oneInstruction then some before else s.heldMask) := by
  unfold State.holdMask; cases s.sys.iLatency <;> rfl

end Sys2Proof.Machine
end

