-- ==== Sys2Proof/Laws/Forms.lean ====
section
/-! SUPPORT. What `exec` is of an instruction given by its operand form: one of the classes of R61, with the effect of its mnemonic. -/

namespace Sys2Proof.Machine

theorem adcForm_exec {o : Operand} {op : Byte} {i : Instr} (h : adcForm o = some (op, i)) (s : State) :
    exec i s = readClass o adc s := by
  rcases o with _ | _ | p
  case memory => cases p <;> cases h <;> rfl
  all_goals cases h <;> rfl

theorem sbcForm_exec {o : Operand} {op : Byte} {i : Instr} (h : sbcForm o = some (op, i)) (s : State) :
    exec i s = readClass o sbc s := by
  rcases o with _ | _ | p
  case memory => cases p <;> cases h <;> rfl
  all_goals cases h <;> rfl

theorem cmpForm_exec {o : Operand} {op : Byte} {i : Instr} (h : cmpForm o = some (op, i)) (s : State) :
    exec i s = readClass o compareA s := by
  rcases o with _ | _ | p
  case memory => cases p <;> cases h <;> rfl
  all_goals cases h <;> rfl

theorem cpxForm_exec {o : Operand} {op : Byte} {i : Instr} (h : cpxForm o = some (op, i)) (s : State) :
    exec i s = readClass o compareX s := by
  rcases o with _ | _ | p
  case memory => cases p <;> cases h <;> rfl
  all_goals cases h <;> rfl

theorem cpyForm_exec {o : Operand} {op : Byte} {i : Instr} (h : cpyForm o = some (op, i)) (s : State) :
    exec i s = readClass o compareY s := by
  rcases o with _ | _ | p
  case memory => cases p <;> cases h <;> rfl
  all_goals cases h <;> rfl

theorem andForm_exec {o : Operand} {op : Byte} {i : Instr} (h : andForm o = some (op, i)) (s : State) :
    exec i s = readClass o andA s := by
  rcases o with _ | _ | p
  case memory => cases p <;> cases h <;> rfl
  all_goals cases h <;> rfl

theorem eorForm_exec {o : Operand} {op : Byte} {i : Instr} (h : eorForm o = some (op, i)) (s : State) :
    exec i s = readClass o eorA s := by
  rcases o with _ | _ | p
  case memory => cases p <;> cases h <;> rfl
  all_goals cases h <;> rfl

theorem oraForm_exec {o : Operand} {op : Byte} {i : Instr} (h : oraForm o = some (op, i)) (s : State) :
    exec i s = readClass o oraA s := by
  rcases o with _ | _ | p
  case memory => cases p <;> cases h <;> rfl
  all_goals cases h <;> rfl

theorem bitForm_exec {o : Operand} {op : Byte} {i : Instr} (h : bitForm o = some (op, i)) (s : State) :
    exec i s = readClass o bitTest s := by
  rcases o with _ | _ | p
  case memory => cases p <;> cases h <;> rfl
  all_goals cases h

theorem ldaForm_exec {o : Operand} {op : Byte} {i : Instr} (h : ldaForm o = some (op, i)) (s : State) :
    exec i s = readClass o lda s := by
  rcases o with _ | _ | p
  case memory => cases p <;> cases h <;> rfl
  all_goals cases h <;> rfl

theorem ldxForm_exec {o : Operand} {op : Byte} {i : Instr} (h : ldxForm o = some (op, i)) (s : State) :
    exec i s = readClass o ldx s := by
  rcases o with _ | _ | p
  case memory => cases p <;> cases h <;> rfl
  all_goals cases h <;> rfl

theorem ldyForm_exec {o : Operand} {op : Byte} {i : Instr} (h : ldyForm o = some (op, i)) (s : State) :
    exec i s = readClass o ldy s := by
  rcases o with _ | _ | p
  case memory => cases p <;> cases h <;> rfl
  all_goals cases h <;> rfl

theorem aslForm_exec_accumulator {op : Byte} {i : Instr} (h : aslForm .accumulator = some (op, i)) (s : State) :
    exec i s = modifyA asl s := by
  cases h; rfl

theorem aslForm_exec_memory {p : Place} {op : Byte} {i : Instr} (h : aslForm (.memory p) = some (op, i)) (s : State) :
    exec i s = modifyClass p asl s := by
  cases p <;> cases h <;> rfl

theorem lsrForm_exec_accumulator {op : Byte} {i : Instr} (h : lsrForm .accumulator = some (op, i)) (s : State) :
    exec i s = modifyA lsr s := by
  cases h; rfl

theorem lsrForm_exec_memory {p : Place} {op : Byte} {i : Instr} (h : lsrForm (.memory p) = some (op, i)) (s : State) :
    exec i s = modifyClass p lsr s := by
  cases p <;> cases h <;> rfl

theorem rolForm_exec_accumulator {op : Byte} {i : Instr} (h : rolForm .accumulator = some (op, i)) (s : State) :
    exec i s = modifyA rol s := by
  cases h; rfl

theorem rolForm_exec_memory {p : Place} {op : Byte} {i : Instr} (h : rolForm (.memory p) = some (op, i)) (s : State) :
    exec i s = modifyClass p rol s := by
  cases p <;> cases h <;> rfl

theorem rorForm_exec_accumulator {op : Byte} {i : Instr} (h : rorForm .accumulator = some (op, i)) (s : State) :
    exec i s = modifyA ror s := by
  cases h; rfl

theorem rorForm_exec_memory {p : Place} {op : Byte} {i : Instr} (h : rorForm (.memory p) = some (op, i)) (s : State) :
    exec i s = modifyClass p ror s := by
  cases p <;> cases h <;> rfl

theorem incForm_exec {p : Place} {op : Byte} {i : Instr} (h : incForm p = some (op, i)) (s : State) :
    exec i s = modifyClass p increment s := by
  cases p <;> cases h <;> rfl

theorem decForm_exec {p : Place} {op : Byte} {i : Instr} (h : decForm p = some (op, i)) (s : State) :
    exec i s = modifyClass p decrement s := by
  cases p <;> cases h <;> rfl

theorem staForm_exec {p : Place} {op : Byte} {i : Instr} (h : staForm p = some (op, i)) (s : State) :
    exec i s = storeClass p s.a s := by
  cases p <;> cases h <;> rfl

theorem stxForm_exec {p : Place} {op : Byte} {i : Instr} (h : stxForm p = some (op, i)) (s : State) :
    exec i s = storeClass p s.x s := by
  cases p <;> cases h <;> rfl

theorem styForm_exec {p : Place} {op : Byte} {i : Instr} (h : styForm p = some (op, i)) (s : State) :
    exec i s = storeClass p s.y s := by
  cases p <;> cases h <;> rfl

end Sys2Proof.Machine
end

