-- ==== Sys2Proof/Laws/PerInstr.lean ====
section
/-! SUPPORT. What holds of every instruction as syntax, one lemma per constructor: its encoding begins with an opcode that the table
lists, and has the length that column B of R90 gives the opcode (spec/30_encoding.md R70). -/

namespace Sys2Proof.Laws

/-- The encoding's first byte is a listed opcode, and its length is the one the table gives that opcode (R70). -/
def Encoded.Statement (i : Instr) : Prop :=
  ∃ op rest, encode i = op :: rest ∧ lengthOf true op = some (encode i).length

theorem Encoded.adcImm (n : Byte) : Encoded.Statement (.adcImm n) := ⟨_, _, rfl, rfl⟩
theorem Encoded.adcAbs (nn : Addr) : Encoded.Statement (.adcAbs nn) := ⟨_, _, rfl, rfl⟩
theorem Encoded.adcZp (n : Byte) : Encoded.Statement (.adcZp n) := ⟨_, _, rfl, rfl⟩
theorem Encoded.adcIndX (n : Byte) : Encoded.Statement (.adcIndX n) := ⟨_, _, rfl, rfl⟩
theorem Encoded.adcIndY (n : Byte) : Encoded.Statement (.adcIndY n) := ⟨_, _, rfl, rfl⟩
theorem Encoded.adcZpX (n : Byte) : Encoded.Statement (.adcZpX n) := ⟨_, _, rfl, rfl⟩
theorem Encoded.adcAbsX (nn : Addr) : Encoded.Statement (.adcAbsX nn) := ⟨_, _, rfl, rfl⟩
theorem Encoded.adcAbsY (nn : Addr) : Encoded.Statement (.adcAbsY nn) := ⟨_, _, rfl, rfl⟩
theorem Encoded.andImm (n : Byte) : Encoded.Statement (.andImm n) := ⟨_, _, rfl, rfl⟩
theorem Encoded.andAbs (nn : Addr) : Encoded.Statement (.andAbs nn) := ⟨_, _, rfl, rfl⟩
theorem Encoded.andZp (n : Byte) : Encoded.Statement (.andZp n) := ⟨_, _, rfl, rfl⟩
theorem Encoded.andIndX (n : Byte) : Encoded.Statement (.andIndX n) := ⟨_, _, rfl, rfl⟩
theorem Encoded.andIndY (n : Byte) : Encoded.Statement (.andIndY n) := ⟨_, _, rfl, rfl⟩
theorem Encoded.andZpX (n : Byte) : Encoded.Statement (.andZpX n) := ⟨_, _, rfl, rfl⟩
theorem Encoded.andAbsX (nn : Addr) : Encoded.Statement (.andAbsX nn) := ⟨_, _, rfl, rfl⟩
theorem Encoded.andAbsY (nn : Addr) : Encoded.Statement (.andAbsY nn) := ⟨_, _, rfl, rfl⟩
theorem Encoded.aslAbs (nn : Addr) : Encoded.Statement (.aslAbs nn) := ⟨_, _, rfl, rfl⟩
theorem Encoded.aslZp (n : Byte) : Encoded.Statement (.aslZp n) := ⟨_, _, rfl, rfl⟩
theorem Encoded.aslAcc : Encoded.Statement (.aslAcc) := ⟨_, _, rfl, rfl⟩
theorem Encoded.aslZpX (n : Byte) : Encoded.Statement (.aslZpX n) := ⟨_, _, rfl, rfl⟩
theorem Encoded.aslAbsX (nn : Addr) : Encoded.Statement (.aslAbsX nn) := ⟨_, _, rfl, rfl⟩
theorem Encoded.bcc (n : Byte) : Encoded.Statement (.bcc n) := ⟨_, _, rfl, rfl⟩
theorem Encoded.bcs (n : Byte) : Encoded.Statement (.bcs n) := ⟨_, _, rfl, rfl⟩
theorem Encoded.beq (n : Byte) : Encoded.Statement (.beq n) := ⟨_, _, rfl, rfl⟩
theorem Encoded.bne (n : Byte) : Encoded.Statement (.bne n) := ⟨_, _, rfl, rfl⟩
theorem Encoded.bmi (n : Byte) : Encoded.Statement (.bmi n) := ⟨_, _, rfl, rfl⟩
theorem Encoded.bpl (n : Byte) : Encoded.Statement (.bpl n) := ⟨_, _, rfl, rfl⟩
theorem Encoded.bvc (n : Byte) : Encoded.Statement (.bvc n) := ⟨_, _, rfl, rfl⟩
theorem Encoded.bvs (n : Byte) : Encoded.Statement (.bvs n) := ⟨_, _, rfl, rfl⟩
theorem Encoded.bitAbs (nn : Addr) : Encoded.Statement (.bitAbs nn) := ⟨_, _, rfl, rfl⟩
theorem Encoded.bitZp (n : Byte) : Encoded.Statement (.bitZp n) := ⟨_, _, rfl, rfl⟩
theorem Encoded.brk : Encoded.Statement (.brk) := ⟨_, _, rfl, rfl⟩
theorem Encoded.clc : Encoded.Statement (.clc) := ⟨_, _, rfl, rfl⟩
theorem Encoded.cld : Encoded.Statement (.cld) := ⟨_, _, rfl, rfl⟩
theorem Encoded.cli : Encoded.Statement (.cli) := ⟨_, _, rfl, rfl⟩
theorem Encoded.clv : Encoded.Statement (.clv) := ⟨_, _, rfl, rfl⟩
theorem Encoded.cmpImm (n : Byte) : Encoded.Statement (.cmpImm n) := ⟨_, _, rfl, rfl⟩
theorem Encoded.cmpAbs (nn : Addr) : Encoded.Statement (.cmpAbs nn) := ⟨_, _, rfl, rfl⟩
theorem Encoded.cmpZp (n : Byte) : Encoded.Statement (.cmpZp n) := ⟨_, _, rfl, rfl⟩
theorem Encoded.cmpIndX (n : Byte) : Encoded.Statement (.cmpIndX n) := ⟨_, _, rfl, rfl⟩
theorem Encoded.cmpIndY (n : Byte) : Encoded.Statement (.cmpIndY n) := ⟨_, _, rfl, rfl⟩
theorem Encoded.cmpZpX (n : Byte) : Encoded.Statement (.cmpZpX n) := ⟨_, _, rfl, rfl⟩
theorem Encoded.cmpAbsX (nn : Addr) : Encoded.Statement (.cmpAbsX nn) := ⟨_, _, rfl, rfl⟩
theorem Encoded.cmpAbsY (nn : Addr) : Encoded.Statement (.cmpAbsY nn) := ⟨_, _, rfl, rfl⟩
theorem Encoded.cpxImm (n : Byte) : Encoded.Statement (.cpxImm n) := ⟨_, _, rfl, rfl⟩
theorem Encoded.cpxAbs (nn : Addr) : Encoded.Statement (.cpxAbs nn) := ⟨_, _, rfl, rfl⟩
theorem Encoded.cpxZp (n : Byte) : Encoded.Statement (.cpxZp n) := ⟨_, _, rfl, rfl⟩
theorem Encoded.cpyImm (n : Byte) : Encoded.Statement (.cpyImm n) := ⟨_, _, rfl, rfl⟩
theorem Encoded.cpyAbs (nn : Addr) : Encoded.Statement (.cpyAbs nn) := ⟨_, _, rfl, rfl⟩
theorem Encoded.cpyZp (n : Byte) : Encoded.Statement (.cpyZp n) := ⟨_, _, rfl, rfl⟩
theorem Encoded.decAbs (nn : Addr) : Encoded.Statement (.decAbs nn) := ⟨_, _, rfl, rfl⟩
theorem Encoded.decZp (n : Byte) : Encoded.Statement (.decZp n) := ⟨_, _, rfl, rfl⟩
theorem Encoded.decZpX (n : Byte) : Encoded.Statement (.decZpX n) := ⟨_, _, rfl, rfl⟩
theorem Encoded.decAbsX (nn : Addr) : Encoded.Statement (.decAbsX nn) := ⟨_, _, rfl, rfl⟩
theorem Encoded.dex : Encoded.Statement (.dex) := ⟨_, _, rfl, rfl⟩
theorem Encoded.dey : Encoded.Statement (.dey) := ⟨_, _, rfl, rfl⟩
theorem Encoded.eorImm (n : Byte) : Encoded.Statement (.eorImm n) := ⟨_, _, rfl, rfl⟩
theorem Encoded.eorAbs (nn : Addr) : Encoded.Statement (.eorAbs nn) := ⟨_, _, rfl, rfl⟩
theorem Encoded.eorZp (n : Byte) : Encoded.Statement (.eorZp n) := ⟨_, _, rfl, rfl⟩
theorem Encoded.eorIndX (n : Byte) : Encoded.Statement (.eorIndX n) := ⟨_, _, rfl, rfl⟩
theorem Encoded.eorIndY (n : Byte) : Encoded.Statement (.eorIndY n) := ⟨_, _, rfl, rfl⟩
theorem Encoded.eorZpX (n : Byte) : Encoded.Statement (.eorZpX n) := ⟨_, _, rfl, rfl⟩
theorem Encoded.eorAbsX (nn : Addr) : Encoded.Statement (.eorAbsX nn) := ⟨_, _, rfl, rfl⟩
theorem Encoded.eorAbsY (nn : Addr) : Encoded.Statement (.eorAbsY nn) := ⟨_, _, rfl, rfl⟩
theorem Encoded.incAbs (nn : Addr) : Encoded.Statement (.incAbs nn) := ⟨_, _, rfl, rfl⟩
theorem Encoded.incZp (n : Byte) : Encoded.Statement (.incZp n) := ⟨_, _, rfl, rfl⟩
theorem Encoded.incZpX (n : Byte) : Encoded.Statement (.incZpX n) := ⟨_, _, rfl, rfl⟩
theorem Encoded.incAbsX (nn : Addr) : Encoded.Statement (.incAbsX nn) := ⟨_, _, rfl, rfl⟩
theorem Encoded.inx : Encoded.Statement (.inx) := ⟨_, _, rfl, rfl⟩
theorem Encoded.iny : Encoded.Statement (.iny) := ⟨_, _, rfl, rfl⟩
theorem Encoded.jmpAbs (nn : Addr) : Encoded.Statement (.jmpAbs nn) := ⟨_, _, rfl, rfl⟩
theorem Encoded.jmpInd (nn : Addr) : Encoded.Statement (.jmpInd nn) := ⟨_, _, rfl, rfl⟩
theorem Encoded.jsrAbs (nn : Addr) : Encoded.Statement (.jsrAbs nn) := ⟨_, _, rfl, rfl⟩
theorem Encoded.ldaImm (n : Byte) : Encoded.Statement (.ldaImm n) := ⟨_, _, rfl, rfl⟩
theorem Encoded.ldaAbs (nn : Addr) : Encoded.Statement (.ldaAbs nn) := ⟨_, _, rfl, rfl⟩
theorem Encoded.ldaZp (n : Byte) : Encoded.Statement (.ldaZp n) := ⟨_, _, rfl, rfl⟩
theorem Encoded.ldaIndX (n : Byte) : Encoded.Statement (.ldaIndX n) := ⟨_, _, rfl, rfl⟩
theorem Encoded.ldaIndY (n : Byte) : Encoded.Statement (.ldaIndY n) := ⟨_, _, rfl, rfl⟩
theorem Encoded.ldaZpX (n : Byte) : Encoded.Statement (.ldaZpX n) := ⟨_, _, rfl, rfl⟩
theorem Encoded.ldaAbsX (nn : Addr) : Encoded.Statement (.ldaAbsX nn) := ⟨_, _, rfl, rfl⟩
theorem Encoded.ldaAbsY (nn : Addr) : Encoded.Statement (.ldaAbsY nn) := ⟨_, _, rfl, rfl⟩
theorem Encoded.ldxImm (n : Byte) : Encoded.Statement (.ldxImm n) := ⟨_, _, rfl, rfl⟩
theorem Encoded.ldxAbs (nn : Addr) : Encoded.Statement (.ldxAbs nn) := ⟨_, _, rfl, rfl⟩
theorem Encoded.ldxZp (n : Byte) : Encoded.Statement (.ldxZp n) := ⟨_, _, rfl, rfl⟩
theorem Encoded.ldxAbsY (nn : Addr) : Encoded.Statement (.ldxAbsY nn) := ⟨_, _, rfl, rfl⟩
theorem Encoded.ldxZpY (n : Byte) : Encoded.Statement (.ldxZpY n) := ⟨_, _, rfl, rfl⟩
theorem Encoded.ldyImm (n : Byte) : Encoded.Statement (.ldyImm n) := ⟨_, _, rfl, rfl⟩
theorem Encoded.ldyAbs (nn : Addr) : Encoded.Statement (.ldyAbs nn) := ⟨_, _, rfl, rfl⟩
theorem Encoded.ldyZp (n : Byte) : Encoded.Statement (.ldyZp n) := ⟨_, _, rfl, rfl⟩
theorem Encoded.ldyZpX (n : Byte) : Encoded.Statement (.ldyZpX n) := ⟨_, _, rfl, rfl⟩
theorem Encoded.ldyAbsX (nn : Addr) : Encoded.Statement (.ldyAbsX nn) := ⟨_, _, rfl, rfl⟩
theorem Encoded.lsrAbs (nn : Addr) : Encoded.Statement (.lsrAbs nn) := ⟨_, _, rfl, rfl⟩
theorem Encoded.lsrZp (n : Byte) : Encoded.Statement (.lsrZp n) := ⟨_, _, rfl, rfl⟩
theorem Encoded.lsrAcc : Encoded.Statement (.lsrAcc) := ⟨_, _, rfl, rfl⟩
theorem Encoded.lsrZpX (n : Byte) : Encoded.Statement (.lsrZpX n) := ⟨_, _, rfl, rfl⟩
theorem Encoded.lsrAbsX (nn : Addr) : Encoded.Statement (.lsrAbsX nn) := ⟨_, _, rfl, rfl⟩
theorem Encoded.nop : Encoded.Statement (.nop) := ⟨_, _, rfl, rfl⟩
theorem Encoded.oraImm (n : Byte) : Encoded.Statement (.oraImm n) := ⟨_, _, rfl, rfl⟩
theorem Encoded.oraAbs (nn : Addr) : Encoded.Statement (.oraAbs nn) := ⟨_, _, rfl, rfl⟩
theorem Encoded.oraZp (n : Byte) : Encoded.Statement (.oraZp n) := ⟨_, _, rfl, rfl⟩
theorem Encoded.oraIndX (n : Byte) : Encoded.Statement (.oraIndX n) := ⟨_, _, rfl, rfl⟩
theorem Encoded.oraIndY (n : Byte) : Encoded.Statement (.oraIndY n) := ⟨_, _, rfl, rfl⟩
theorem Encoded.oraZpX (n : Byte) : Encoded.Statement (.oraZpX n) := ⟨_, _, rfl, rfl⟩
theorem Encoded.oraAbsX (nn : Addr) : Encoded.Statement (.oraAbsX nn) := ⟨_, _, rfl, rfl⟩
theorem Encoded.oraAbsY (nn : Addr) : Encoded.Statement (.oraAbsY nn) := ⟨_, _, rfl, rfl⟩
theorem Encoded.pha : Encoded.Statement (.pha) := ⟨_, _, rfl, rfl⟩
theorem Encoded.php : Encoded.Statement (.php) := ⟨_, _, rfl, rfl⟩
theorem Encoded.pla : Encoded.Statement (.pla) := ⟨_, _, rfl, rfl⟩
theorem Encoded.plp : Encoded.Statement (.plp) := ⟨_, _, rfl, rfl⟩
theorem Encoded.rolAbs (nn : Addr) : Encoded.Statement (.rolAbs nn) := ⟨_, _, rfl, rfl⟩
theorem Encoded.rolZp (n : Byte) : Encoded.Statement (.rolZp n) := ⟨_, _, rfl, rfl⟩
theorem Encoded.rolAcc : Encoded.Statement (.rolAcc) := ⟨_, _, rfl, rfl⟩
theorem Encoded.rolZpX (n : Byte) : Encoded.Statement (.rolZpX n) := ⟨_, _, rfl, rfl⟩
theorem Encoded.rolAbsX (nn : Addr) : Encoded.Statement (.rolAbsX nn) := ⟨_, _, rfl, rfl⟩
theorem Encoded.rorAbs (nn : Addr) : Encoded.Statement (.rorAbs nn) := ⟨_, _, rfl, rfl⟩
theorem Encoded.rorZp (n : Byte) : Encoded.Statement (.rorZp n) := ⟨_, _, rfl, rfl⟩
theorem Encoded.rorAcc : Encoded.Statement (.rorAcc) := ⟨_, _, rfl, rfl⟩
theorem Encoded.rorZpX (n : Byte) : Encoded.Statement (.rorZpX n) := ⟨_, _, rfl, rfl⟩
theorem Encoded.rorAbsX (nn : Addr) : Encoded.Statement (.rorAbsX nn) := ⟨_, _, rfl, rfl⟩
theorem Encoded.rti : Encoded.Statement (.rti) := ⟨_, _, rfl, rfl⟩
theorem Encoded.rts : Encoded.Statement (.rts) := ⟨_, _, rfl, rfl⟩
theorem Encoded.sbcImm (n : Byte) : Encoded.Statement (.sbcImm n) := ⟨_, _, rfl, rfl⟩
theorem Encoded.sbcAbs (nn : Addr) : Encoded.Statement (.sbcAbs nn) := ⟨_, _, rfl, rfl⟩
theorem Encoded.sbcZp (n : Byte) : Encoded.Statement (.sbcZp n) := ⟨_, _, rfl, rfl⟩
theorem Encoded.sbcIndX (n : Byte) : Encoded.Statement (.sbcIndX n) := ⟨_, _, rfl, rfl⟩
theorem Encoded.sbcIndY (n : Byte) : Encoded.Statement (.sbcIndY n) := ⟨_, _, rfl, rfl⟩
theorem Encoded.sbcZpX (n : Byte) : Encoded.Statement (.sbcZpX n) := ⟨_, _, rfl, rfl⟩
theorem Encoded.sbcAbsX (nn : Addr) : Encoded.Statement (.sbcAbsX nn) := ⟨_, _, rfl, rfl⟩
theorem Encoded.sbcAbsY (nn : Addr) : Encoded.Statement (.sbcAbsY nn) := ⟨_, _, rfl, rfl⟩
theorem Encoded.sec : Encoded.Statement (.sec) := ⟨_, _, rfl, rfl⟩
theorem Encoded.sed : Encoded.Statement (.sed) := ⟨_, _, rfl, rfl⟩
theorem Encoded.sei : Encoded.Statement (.sei) := ⟨_, _, rfl, rfl⟩
theorem Encoded.staAbs (nn : Addr) : Encoded.Statement (.staAbs nn) := ⟨_, _, rfl, rfl⟩
theorem Encoded.staZp (n : Byte) : Encoded.Statement (.staZp n) := ⟨_, _, rfl, rfl⟩
theorem Encoded.staIndX (n : Byte) : Encoded.Statement (.staIndX n) := ⟨_, _, rfl, rfl⟩
theorem Encoded.staIndY (n : Byte) : Encoded.Statement (.staIndY n) := ⟨_, _, rfl, rfl⟩
theorem Encoded.staZpX (n : Byte) : Encoded.Statement (.staZpX n) := ⟨_, _, rfl, rfl⟩
theorem Encoded.staAbsX (nn : Addr) : Encoded.Statement (.staAbsX nn) := ⟨_, _, rfl, rfl⟩
theorem Encoded.staAbsY (nn : Addr) : Encoded.Statement (.staAbsY nn) := ⟨_, _, rfl, rfl⟩
theorem Encoded.stxAbs (nn : Addr) : Encoded.Statement (.stxAbs nn) := ⟨_, _, rfl, rfl⟩
theorem Encoded.stxZp (n : Byte) : Encoded.Statement (.stxZp n) := ⟨_, _, rfl, rfl⟩
theorem Encoded.stxZpY (n : Byte) : Encoded.Statement (.stxZpY n) := ⟨_, _, rfl, rfl⟩
theorem Encoded.styAbs (nn : Addr) : Encoded.Statement (.styAbs nn) := ⟨_, _, rfl, rfl⟩
theorem Encoded.styZp (n : Byte) : Encoded.Statement (.styZp n) := ⟨_, _, rfl, rfl⟩
theorem Encoded.styZpX (n : Byte) : Encoded.Statement (.styZpX n) := ⟨_, _, rfl, rfl⟩
theorem Encoded.tax : Encoded.Statement (.tax) := ⟨_, _, rfl, rfl⟩
theorem Encoded.tay : Encoded.Statement (.tay) := ⟨_, _, rfl, rfl⟩
theorem Encoded.tsx : Encoded.Statement (.tsx) := ⟨_, _, rfl, rfl⟩
theorem Encoded.txa : Encoded.Statement (.txa) := ⟨_, _, rfl, rfl⟩
theorem Encoded.txs : Encoded.Statement (.txs) := ⟨_, _, rfl, rfl⟩
theorem Encoded.tya : Encoded.Statement (.tya) := ⟨_, _, rfl, rfl⟩

end Sys2Proof.Laws
end

