-- ==== Sys2Proof/Laws/Words.lean ====
section
/-! SUPPORT. Words, stack slots and status bytes in the arithmetic of the statements, and the two shapes in which a write commutes
with an update of another field. -/

namespace Sys2Proof.Machine

theorem wordOf_toNat (l h : Byte) : (wordOf l h).toNat = l.toNat + 256 * h.toNat := by
  have := l.isLt
  simp only [wordOf, BitVec.toNat_append]
  rw [Nat.shiftLeft_eq, Nat.or_comm, ← Nat.shiftLeft_eq, Nat.or_comm, ← Nat.shiftLeft_add_eq_or_of_lt (by omega),
    Nat.shiftLeft_eq]
  omega

/-- `word(l, h)` is `256*h + l` (R6). -/
theorem wordOf_eq (l h : Byte) : wordOf l h = BitVec.ofNat 16 (l.toNat + 256 * h.toNat) := by
  apply BitVec.eq_of_toNat_eq
  have := l.isLt; have := h.isLt
  simp only [wordOf_toNat, BitVec.toNat_ofNat]; omega

theorem highByte_eq (w : Addr) : highByte w = BitVec.ofNat 8 (w.toNat / 256) := by
  apply BitVec.eq_of_toNat_eq; simp [highByte, Nat.shiftRight_eq_div_pow]

theorem lowByte_eq (w : Addr) : lowByte w = BitVec.ofNat 8 (w.toNat % 256) := by
  apply BitVec.eq_of_toNat_eq; simp [lowByte]

/-- The two bytes of a word make the word. -/
theorem wordOf_bytes (w : Addr) : wordOf (lowByte w) (highByte w) = w := by
  rw [wordOf_eq, highByte_eq, lowByte_eq]
  apply BitVec.eq_of_toNat_eq
  have := w.isLt
  simp only [BitVec.toNat_ofNat]; omega

theorem lowByte_wordOf (l h : Byte) : lowByte (wordOf l h) = l := by
  rw [wordOf_eq, lowByte_eq]
  apply BitVec.eq_of_toNat_eq
  have := l.isLt; have := h.isLt
  simp only [BitVec.toNat_ofNat]; omega

theorem highByte_wordOf (l h : Byte) : highByte (wordOf l h) = h := by
  rw [wordOf_eq, highByte_eq]
  apply BitVec.eq_of_toNat_eq
  have := l.isLt; have := h.isLt
  simp only [BitVec.toNat_ofNat]; omega

theorem stackSlot_eq (s : State) (k : Nat) : stackSlot s k = stackAddr s.sys.stackPage (s.sp - BitVec.ofNat 8 k) := rfl

theorem stackAbove_eq (s : State) (k : Nat) : stackAbove s k = stackAddr s.sys.stackPage (s.sp + BitVec.ofNat 8 k) := rfl

/-- The stack slots of a state depend on S and the parameters alone. -/
theorem stackSlot_congr {s t : State} (hs : t.sys = s.sys) (hp : t.sp = s.sp) (k : Nat) : stackSlot t k = stackSlot s k := by
  simp [stackSlot, hs, hp]

/-- The byte pushed from P, in the two spellings of Ops and Forms. -/
theorem toByte_eq (f : Flags) (bit5 bit4 : Bool) : f.toByte bit5 bit4 = pushedView f bit5 bit4 := by
  obtain ⟨n, v, d, i, z, c⟩ := f
  revert n v d i z c bit5 bit4; decide +kernel

/-- A pulled P has the six flags that were pushed, whatever its bits 5 and 4 (R27). -/
theorem flagsOf_toByte (f : Flags) (bit5 bit4 : Bool) : flagsOf (f.toByte bit5 bit4) = f := by
  obtain ⟨n, v, d, i, z, c⟩ := f
  cases n <;> cases v <;> cases d <;> cases i <;> cases z <;> cases c <;> cases bit5 <;> cases bit4 <;> rfl

theorem afterWrite_setSp (s : State) (v : Byte) (a : Addr) (w : Byte) :
    (s.setSp v).afterWrite a w = (s.afterWrite a w).setSp v := by
  unfold State.afterWrite; rw [State.kindAt_congr (State.setSp_sys s v)]; split <;> rfl

theorem afterWrite_setDraws (s : State) (n : Nat) (a : Addr) (w : Byte) :
    (s.setDraws n).afterWrite a w = (s.afterWrite a w).setDraws n := by
  unfold State.afterWrite; rw [State.kindAt_congr (State.setDraws_sys s n)]; split <;> rfl

end Sys2Proof.Machine
end

