-- ==== Sys2Proof/Machine/Assembly.lean ====
section
/-! DEFINITION. The assembler's view of an instruction (spec/30_encoding.md section 6): which mnemonic takes which form (R89), the shape
of an operand (R96), number prefixes (R97) and the displacement of a branch to a label (R96). It serves a reader of programs; the
machine does not use it. Directives, labels and expressions are not in the source (R3). -/

namespace Sys2Proof.Machine

/-- The opcode of a mnemonic in a form, none where R89 has a dash. -/
def opcodeFor (mnemonic : String) (form : Form) : Option Byte :=
  (opcodeTable.find? fun r => r.mnemonic == mnemonic && r.form == form).map Row.opcode

/-- A hexadecimal digit, as the card writes them. -/
def hexDigit (k : Nat) : Char := Char.ofNat (if k < 10 then 48 + k else 55 + k)

/-- A byte as two hexadecimal digits, most significant first (MSD, LSD of R7). -/
def hexByte (b : Byte) : List Char := [hexDigit (b.toNat / 16), hexDigit (b.toNat % 16)]

/-- `n` or `nn` in hexadecimal with its prefix: the bytes of the encoding are low byte first (R71). -/
def hexOperand (bytes : List Byte) : List Char := '$' :: bytes.reverse.flatMap hexByte

/-- The operand as column FORM of R73 writes it (R96). -/
def operandText (form : Form) (bytes : List Byte) : List Char :=
  match form with
  | .none => []
  | .accumulator => ['A']
  | .immediate => '#' :: hexOperand bytes
  | .zeroPage | .absolute | .relative => hexOperand bytes
  | .zeroPageX | .absoluteX => hexOperand bytes ++ [',', 'X']
  | .zeroPageY | .absoluteY => hexOperand bytes ++ [',', 'Y']
  | .indX => '(' :: hexOperand bytes ++ [',', 'X', ')']
  | .indY => '(' :: hexOperand bytes ++ [')', ',', 'Y']
  | .indirect => '(' :: hexOperand bytes ++ [')']

/-- The instruction written with its bytes' values (R96): the mnemonic and the operand. A branch is written with its displacement byte,
as in the card's table. -/
def instrText (i : Instr) : Option (String × List Char) :=
  match encode i with
  | [] => none
  | op :: bytes => (rowOf true op).map fun r => (r.mnemonic, operandText r.form bytes)

/-- The value of a digit. -/
def digitValue (c : Char) : Option Nat :=
  if '0' ≤ c ∧ c ≤ '9' then some (c.toNat - 48)
  else if 'A' ≤ c ∧ c ≤ 'F' then some (c.toNat - 55)
  else if 'a' ≤ c ∧ c ≤ 'f' then some (c.toNat - 87)
  else none

/-- Digits in a base, most significant first, added to what is read so far. -/
def digitsValue (base : Nat) : Nat → List Char → Option Nat
  | acc, [] => some acc
  | acc, c :: cs =>
    match digitValue c with
    | some d => if d < base then digitsValue base (base * acc + d) cs else none
    | none => none

/-- At least one digit. -/
def numeral (base : Nat) : List Char → Option Nat
  | [] => none
  | cs => digitsValue base 0 cs

/-- A number by its leading symbol (R97): `$` hex, `@` octal, `%` binary, `'` an ASCII character by R99's table (codes $20 to $7E; the two
lost cells $5E, $5F are taken from standard ASCII, log 30), none decimal. -/
def numberOf : List Char → Option Nat
  | '$' :: cs => numeral 16 cs
  | '@' :: cs => numeral 8 cs
  | '%' :: cs => numeral 2 cs
  | ['\'', c] => if 0x20 ≤ c.toNat ∧ c.toNat ≤ 0x7E then some c.toNat else none
  | cs => numeral 10 cs

/-- "In col 1 for comment" (R97). -/
def isCommentLine : List Char → Bool
  | ';' :: _ => true
  | _ => false

/-- The displacement of a branch at `a` to a label: `(label - pc_next) mod 256`, none for a label outside `pc_next - 128` to
`pc_next + 127` (R96). -/
def displacementTo (a label : Addr) : Option Byte :=
  let d := (label - (a + 2)).toInt
  if -128 ≤ d ∧ d ≤ 127 then some (BitVec.ofInt 8 d) else none

end Sys2Proof.Machine
end

