-- ==== Sys2Proof/Tests/Slice0.lean ====
section
/-! SUPPORT. Tests. The decode words are written bit by bit from column "encoding" of the opcode table; the expected results are the
spec's own worked examples (the rule is named) or worked out by hand from a rule. Each `test_meets_<Statement>` shows a state and
operands that meet the hypotheses of that statement, clause by clause. -/

namespace Sys2Proof.Tests

open Sys2Proof Sys2Proof.Machine

/-! ## Decoding -/

/-- Each list of bytes decodes, with a byte after it left over, to the instruction at the same place. -/
def readsAs (words : List (List Byte)) (instrs : List Instr) : Bool :=
  decide (words.map (fun w => (decode true (w ++ [0x55])).toOption) = instrs.map fun i => some (i, [0x55]))

theorem test_decode_adc : readsAs
    [[0b01101001, 0x83], [0b01101101, 0x34, 0x12], [0b01100101, 0x83], [0b01100001, 0x83], [0b01110001, 0x83],
      [0b01110101, 0x83], [0b01111101, 0x34, 0x12], [0b01111001, 0x34, 0x12]]
    [.adcImm 0x83, .adcAbs 0x1234, .adcZp 0x83, .adcIndX 0x83, .adcIndY 0x83, .adcZpX 0x83, .adcAbsX 0x1234, .adcAbsY 0x1234] := by
  decide

theorem test_decode_sbc : readsAs
    [[0b11101001, 0x83], [0b11101101, 0x34, 0x12], [0b11100101, 0x83], [0b11100001, 0x83], [0b11110001, 0x83],
      [0b11110101, 0x83], [0b11111101, 0x34, 0x12], [0b11111001, 0x34, 0x12]]
    [.sbcImm 0x83, .sbcAbs 0x1234, .sbcZp 0x83, .sbcIndX 0x83, .sbcIndY 0x83, .sbcZpX 0x83, .sbcAbsX 0x1234, .sbcAbsY 0x1234] := by
  decide

theorem test_decode_cmp_cpx_cpy : readsAs
    [[0b11001001, 0x83], [0b11001101, 0x34, 0x12], [0b11000101, 0x83], [0b11000001, 0x83], [0b11010001, 0x83],
      [0b11010101, 0x83], [0b11011101, 0x34, 0x12], [0b11011001, 0x34, 0x12], [0b11100000, 0x83], [0b11101100, 0x34, 0x12],
      [0b11100100, 0x83], [0b11000000, 0x83], [0b11001100, 0x34, 0x12], [0b11000100, 0x83]]
    [.cmpImm 0x83, .cmpAbs 0x1234, .cmpZp 0x83, .cmpIndX 0x83, .cmpIndY 0x83, .cmpZpX 0x83, .cmpAbsX 0x1234, .cmpAbsY 0x1234,
      .cpxImm 0x83, .cpxAbs 0x1234, .cpxZp 0x83, .cpyImm 0x83, .cpyAbs 0x1234, .cpyZp 0x83] := by
  decide

theorem test_decode_and_eor : readsAs
    [[0b00101001, 0x83], [0b00101101, 0x34, 0x12], [0b00100101, 0x83], [0b00100001, 0x83], [0b00110001, 0x83],
      [0b00110101, 0x83], [0b00111101, 0x34, 0x12], [0b00111001, 0x34, 0x12], [0b01001001, 0x83], [0b01001101, 0x34, 0x12],
      [0b01000101, 0x83], [0b01000001, 0x83], [0b01010001, 0x83], [0b01010101, 0x83], [0b01011101, 0x34, 0x12],
      [0b01011001, 0x34, 0x12]]
    [.andImm 0x83, .andAbs 0x1234, .andZp 0x83, .andIndX 0x83, .andIndY 0x83, .andZpX 0x83, .andAbsX 0x1234, .andAbsY 0x1234,
      .eorImm 0x83, .eorAbs 0x1234, .eorZp 0x83, .eorIndX 0x83, .eorIndY 0x83, .eorZpX 0x83, .eorAbsX 0x1234, .eorAbsY 0x1234] := by
  decide

theorem test_decode_ora_bit : readsAs
    [[0b00101100, 0x34, 0x12], [0b00100100, 0x83], [0b00001001, 0x83], [0b00001101, 0x34, 0x12], [0b00000101, 0x83],
      [0b00000001, 0x83], [0b00010001, 0x83], [0b00010101, 0x83], [0b00011101, 0x34, 0x12], [0b00011001, 0x34, 0x12]]
    [.bitAbs 0x1234, .bitZp 0x83, .oraImm 0x83, .oraAbs 0x1234, .oraZp 0x83, .oraIndX 0x83, .oraIndY 0x83, .oraZpX 0x83,
      .oraAbsX 0x1234, .oraAbsY 0x1234] := by
  decide

theorem test_decode_asl_lsr : readsAs
    [[0b00001110, 0x34, 0x12], [0b00000110, 0x83], [0b00001010], [0b00010110, 0x83], [0b00011110, 0x34, 0x12],
      [0b01001110, 0x34, 0x12], [0b01000110, 0x83], [0b01001010], [0b01010110, 0x83], [0b01011110, 0x34, 0x12]]
    [.aslAbs 0x1234, .aslZp 0x83, .aslAcc, .aslZpX 0x83, .aslAbsX 0x1234, .lsrAbs 0x1234, .lsrZp 0x83, .lsrAcc, .lsrZpX 0x83,
      .lsrAbsX 0x1234] := by
  decide

theorem test_decode_rol_ror : readsAs
    [[0b00101110, 0x34, 0x12], [0b00100110, 0x83], [0b00101010], [0b00110110, 0x83], [0b00111110, 0x34, 0x12],
      [0b01101110, 0x34, 0x12], [0b01100110, 0x83], [0b01101010], [0b01110110, 0x83], [0b01111110, 0x34, 0x12]]
    [.rolAbs 0x1234, .rolZp 0x83, .rolAcc, .rolZpX 0x83, .rolAbsX 0x1234, .rorAbs 0x1234, .rorZp 0x83, .rorAcc, .rorZpX 0x83,
      .rorAbsX 0x1234] := by
  decide

theorem test_decode_bcc_to_bvs : readsAs
    [[0b10010000, 0x83], [0b10110000, 0x83], [0b11110000, 0x83], [0b11010000, 0x83], [0b00110000, 0x83], [0b00010000, 0x83],
      [0b01010000, 0x83], [0b01110000, 0x83]]
    [.bcc 0x83, .bcs 0x83, .beq 0x83, .bne 0x83, .bmi 0x83, .bpl 0x83, .bvc 0x83, .bvs 0x83] := by
  decide

theorem test_decode_jmp_to_nop : readsAs
    [[0b00000000], [0b01001100, 0x34, 0x12], [0b01101100, 0x34, 0x12], [0b00100000, 0x34, 0x12], [0b11101010], [0b01000000],
      [0b01100000]]
    [.brk, .jmpAbs 0x1234, .jmpInd 0x1234, .jsrAbs 0x1234, .nop, .rti, .rts] := by
  decide

theorem test_decode_clc_to_sei : readsAs
    [[0b00011000], [0b11011000], [0b01011000], [0b10111000], [0b00111000], [0b11111000], [0b01111000]]
    [.clc, .cld, .cli, .clv, .sec, .sed, .sei] := by
  decide

theorem test_decode_inc_to_dey : readsAs
    [[0b11001110, 0x34, 0x12], [0b11000110, 0x83], [0b11010110, 0x83], [0b11011110, 0x34, 0x12], [0b11001010], [0b10001000],
      [0b11101110, 0x34, 0x12], [0b11100110, 0x83], [0b11110110, 0x83], [0b11111110, 0x34, 0x12], [0b11101000], [0b11001000]]
    [.decAbs 0x1234, .decZp 0x83, .decZpX 0x83, .decAbsX 0x1234, .dex, .dey, .incAbs 0x1234, .incZp 0x83, .incZpX 0x83,
      .incAbsX 0x1234, .inx, .iny] := by
  decide

theorem test_decode_lda : readsAs
    [[0b10101001, 0x83], [0b10101101, 0x34, 0x12], [0b10100101, 0x83], [0b10100001, 0x83], [0b10110001, 0x83],
      [0b10110101, 0x83], [0b10111101, 0x34, 0x12], [0b10111001, 0x34, 0x12]]
    [.ldaImm 0x83, .ldaAbs 0x1234, .ldaZp 0x83, .ldaIndX 0x83, .ldaIndY 0x83, .ldaZpX 0x83, .ldaAbsX 0x1234, .ldaAbsY 0x1234] := by
  decide

theorem test_decode_ldx_ldy : readsAs
    [[0b10100010, 0x83], [0b10101110, 0x34, 0x12], [0b10100110, 0x83], [0b10111110, 0x34, 0x12], [0b10110110, 0x83],
      [0b10100000, 0x83], [0b10101100, 0x34, 0x12], [0b10100100, 0x83], [0b10110100, 0x83], [0b10111100, 0x34, 0x12]]
    [.ldxImm 0x83, .ldxAbs 0x1234, .ldxZp 0x83, .ldxAbsY 0x1234, .ldxZpY 0x83, .ldyImm 0x83, .ldyAbs 0x1234, .ldyZp 0x83,
      .ldyZpX 0x83, .ldyAbsX 0x1234] := by
  decide

theorem test_decode_sta_stx_sty : readsAs
    [[0b10001101, 0x34, 0x12], [0b10000101, 0x83], [0b10000001, 0x83], [0b10010001, 0x83], [0b10010101, 0x83],
      [0b10011101, 0x34, 0x12], [0b10011001, 0x34, 0x12], [0b10001110, 0x34, 0x12], [0b10000110, 0x83], [0b10010110, 0x83],
      [0b10001100, 0x34, 0x12], [0b10000100, 0x83], [0b10010100, 0x83]]
    [.staAbs 0x1234, .staZp 0x83, .staIndX 0x83, .staIndY 0x83, .staZpX 0x83, .staAbsX 0x1234, .staAbsY 0x1234,
      .stxAbs 0x1234, .stxZp 0x83, .stxZpY 0x83, .styAbs 0x1234, .styZp 0x83, .styZpX 0x83] := by
  decide

theorem test_decode_pha_to_tya : readsAs
    [[0b01001000], [0b00001000], [0b01101000], [0b00101000], [0b10101010], [0b10101000], [0b10111010], [0b10001010],
      [0b10011010], [0b10011000]]
    [.pha, .php, .pla, .plp, .tax, .tay, .tsx, .txa, .txs, .tya] := by
  decide

/-- Unlisted opcodes, operands cut short, and ROR on a chip without it (R93, R94). -/
theorem test_decode_refuses :
    decode true [0x02] = .error (.unlistedOpcode 0x02) ∧ decode true [0xFF, 0, 0] = .error (.unlistedOpcode 0xFF) ∧
    decode true [0x4C, 0x34] = .error (.truncated 0x4C) ∧ decode true [] = .error .empty ∧
    decode false [0x6A] = .error (.unlistedOpcode 0x6A) ∧ decode false [0x2A] = .ok (.rolAcc, []) := ⟨rfl, rfl, rfl, rfl, rfl, rfl⟩

/-- The table's numbering: the first byte is bits 7 to 0; bits from nbits on are 0. -/
theorem test_decode_table_word :
    decodeTableWord 24 0x12344C = some (.jmpAbs 0x1234) ∧ decodeTableWord 8 0x12344C = some (.jmpAbs 0) ∧
    decodeTableWord 16 0x80A9 = some (.ldaImm 0x80) ∧ decodeTableWord 8 0x02 = none := ⟨rfl, rfl, rfl, rfl⟩

/-! ## Well-formedness -/

/-- ROR is ill-formed on a chip without it, in each of its forms (R94). -/
theorem test_wellformed_refuses_ror :
    [Instr.rorAbs 0, .rorZp 0, .rorAcc, .rorZpX 0, .rorAbsX 0].all (fun i => !i.wellFormed false && i.wellFormed true) = true ∧
    Instr.wellFormed false .rolAcc = true := by decide

/-- A pointer that the instruction names and that crosses a page is found (R85). -/
theorem test_lint_finds_pointers :
    Instr.pointerInPage (.ldaIndY 0xFF) = false ∧ Instr.pointerInPage (.ldaIndY 0xFE) = true ∧
    Instr.pointerInPage (.jmpInd 0x12FF) = false ∧ Instr.pointerInPage (.jmpInd 0x1300) = true := by decide

/-! ## The examples of the spec -/

/-- Six flags from 0 and 1, in the order N V D I Z C. -/
def fl (n v d i z c : Nat) : Flags := ⟨n == 1, v == 1, d == 1, i == 1, z == 1, c == 1⟩

/-- The small state of the examples: PC = $0300, the given bytes in RAM, all registers and flags 0. -/
def at300 (bytes : List (Addr × Byte)) : State :=
  { State.reset with pc := 0x0300, p := fl 0 0 0 0 0 0, mem := bytes.foldl (fun m c => m.store c.1 c.2) [] }

/-- What a next state shows, if there is one. -/
def seen {α : Type} (f : State → α) : Exec → Option α
  | .next t => some (f t)
  | .fault _ => none
  | .refused _ => none

/-- R111's table. -/
theorem test_adc_examples :
    ([(0x05, 0x03, 0), (0x7F, 0x01, 0), (0xFF, 0x01, 0), (0xFF, 0xFF, 1), (0x80, 0x80, 0), (0x50, 0x50, 1), (0x00, 0x00, 0)].map
      fun (a, m, c) => seen (fun t => (t.a, t.p)) (exec (.adcImm m) { at300 [] with a := a, p := fl 0 0 0 0 0 c })) =
    [some (0x08, fl 0 0 0 0 0 0), some (0x80, fl 1 1 0 0 0 0), some (0x00, fl 0 0 0 0 1 1), some (0xFF, fl 1 0 0 0 0 1),
      some (0x00, fl 0 1 0 0 1 1), some (0xA1, fl 1 1 0 0 0 0), some (0x00, fl 0 0 0 0 1 0)] := by decide

/-- R112's examples, A and C. -/
theorem test_decimal_examples :
    ([(Instr.adcImm 0x01, (0x19 : Byte), 0), (.adcImm 0x01, 0x99, 0), (.sbcImm 0x01, 0x20, 1), (.sbcImm 0x01, 0x00, 1)].map
      fun (i, a, c) => seen (fun t => (t.a, t.p.c, t.pc)) (exec i { at300 [] with a := a, p := fl 0 0 1 0 0 c })) =
    [some (0x20, false, 0x0302), some (0x00, true, 0x0302), some (0x19, true, 0x0302), some (0x99, false, 0x0302)] := by decide

/-- R113's table. -/
theorem test_sbc_examples :
    ([(0x05, 0x05, 1), (0x05, 0x00, 0), (0x00, 0x01, 1), (0x80, 0x01, 1), (0x7F, 0xFF, 1), (0x7F, 0x80, 0)].map
      fun (a, m, c) => seen (fun t => (t.a, t.p)) (exec (.sbcImm m) { at300 [] with a := a, p := fl 0 0 0 0 0 c })) =
    [some (0x00, fl 0 0 0 0 1 1), some (0x04, fl 0 0 0 0 0 1), some (0xFF, fl 1 0 0 0 0 0), some (0x7F, fl 0 1 0 0 0 1),
      some (0x80, fl 1 1 0 0 0 0), some (0xFE, fl 1 1 0 0 0 0)] := by decide

/-- The examples of R114, R115, R116. -/
theorem test_compare_examples :
    ([Instr.cmpImm 0x10, .cmpImm 0x11, .cmpImm 0x0F, .cpxZp 0x10, .cpyImm 0xFF].map
      fun i => seen (fun t => (t.a, t.p)) (exec i { at300 [(0x10, 0x3F)] with a := 0x10, x := 0x40, y := 0xFE, p := fl 0 1 0 0 0 0 })) =
    [some (0x10, fl 0 1 0 0 1 1), some (0x10, fl 1 1 0 0 0 0), some (0x10, fl 0 1 0 0 0 1), some (0x10, fl 0 1 0 0 0 1),
      some (0x10, fl 1 1 0 0 0 0)] := by decide

/-- The encoded examples of R121 to R124, run by step from their bytes. -/
theorem test_logic_examples :
    ([([(0x0300, 0x29), (0x0301, 0x80)], (0xFF : Byte), fl 0 1 0 0 0 1), ([(0x0300, 0x49), (0x0301, 0x00)], 0x80, fl 0 0 0 0 0 0),
      ([(0x0300, 0x05), (0x0301, 0x10), (0x0010, 0x30)], 0x0C, fl 0 0 0 0 0 0),
      ([(0x0300, 0x2C), (0x0301, 0x00), (0x0302, 0x20), (0x2000, 0x3F)], 0xFF, fl 1 1 0 0 0 0)].map
      fun (m, a, p) => seen (fun t => (t.a, t.p, t.pc)) (step { at300 m with a := a, p := p })) =
    [some (0x80, fl 1 1 0 0 0 1, 0x0302), some (0x80, fl 1 0 0 0 0 0, 0x0302), some (0x3C, fl 0 0 0 0 0 0, 0x0302),
      some (0xFF, fl 0 0 0 0 0 0, 0x0303)] := by decide

/-- The accumulator examples of R131 to R134. -/
theorem test_shift_accumulator_examples :
    ([(Instr.aslAcc, (0x81 : Byte), fl 0 0 0 0 0 0), (.lsrAcc, 0x01, fl 1 0 0 0 0 0), (.rolAcc, 0x40, fl 0 0 0 0 0 1),
      (.rorAcc, 0x02, fl 0 0 0 0 0 1)].map fun (i, a, p) => seen (fun t => (t.a, t.p)) (exec i { at300 [] with a := a, p := p })) =
    [some (0x02, fl 0 0 0 0 0 1), some (0x00, fl 0 0 0 0 1 1), some (0x81, fl 1 0 0 0 0 0), some (0x81, fl 1 0 0 0 0 0)] := by decide

/-- The memory examples of R131 to R134. -/
theorem test_shift_memory_examples :
    ([(Instr.aslZp 0x10, [((0x10 : Addr), (0x55 : Byte))], (0x10 : Addr), fl 0 0 0 0 0 0), (.lsrZp 0x10, [(0x10, 0xFF)], 0x10, fl 0 0 0 0 0 0),
      (.rolZp 0x10, [(0x10, 0xFF)], 0x10, fl 0 0 0 0 0 0), (.rorAbsX 0x2000, [(0x2005, 0x01)], 0x2005, fl 0 0 0 0 0 1)].map
      fun (i, m, k, p) => seen (fun t => (t.byteAt k, t.p, t.pc)) (exec i { at300 m with x := 0x05, p := p })) =
    [some (0xAA, fl 1 0 0 0 0 0, 0x0302), some (0x7F, fl 0 0 0 0 0 1, 0x0302), some (0xFE, fl 1 0 0 0 0 1, 0x0302),
      some (0x80, fl 1 0 0 0 0 1, 0x0303)] := by decide

/-- The examples of R141 to R148, taken. -/
theorem test_branch_examples :
    ([(Instr.bcc 0x80, (0x0300 : Addr), fl 0 0 0 0 0 0), (.bcs 0x10, 0x02F0, fl 0 0 0 0 0 1), (.beq 0x7F, 0x0300, fl 0 0 0 0 1 0),
      (.bne 0xFA, 0x0300, fl 0 0 0 0 0 0), (.bmi 0xFC, 0x0300, fl 1 0 0 0 0 0), (.bpl 0xFE, 0x0300, fl 0 0 0 0 0 0),
      (.bvc 0x00, 0x0300, fl 0 0 0 0 0 0), (.bvs 0x10, 0xFFF0, fl 0 1 0 0 0 0)].map
      fun (i, pc, p) => seen (fun t => (t.pc, t.p == p)) (exec i { at300 [] with pc := pc, p := p })) =
    [some (0x0282, true), some (0x0302, true), some (0x0381, true), some (0x02FC, true), some (0x02FE, true), some (0x0300, true),
      some (0x0302, true), some (0x0002, true)] := by decide

/-- The same branches, not taken. -/
theorem test_branch_not_taken :
    ([(Instr.bcc 0x80, fl 0 0 0 0 0 1), (.bcs 0x10, fl 1 1 1 1 1 0), (.beq 0x7F, fl 1 1 1 1 0 1), (.bne 0xFA, fl 0 0 0 0 1 0),
      (.bmi 0xFC, fl 0 1 1 1 1 1), (.bpl 0xFE, fl 1 0 0 0 0 0), (.bvc 0x01, fl 0 1 0 0 0 0), (.bvs 0x10, fl 1 0 1 1 1 1)].map
      fun (i, p) => seen (fun t => t.pc) (exec i { at300 [] with p := p })) = List.replicate 8 (some 0x0302) := by decide

/-- The examples of R149 to R152. -/
theorem test_jump_examples :
    ([Instr.jmpAbs 0x1234, .jmpInd 0x0400].map fun i => seen (fun t => (t.pc, t.sp)) (exec i { at300 [(0x0400, 0x78), (0x0401, 0x56)] with sp := 0xFD })) =
    [some (0x1234, 0xFD), some (0x5678, 0xFD)] := by decide

theorem test_jsr_example :
    seen (fun t => (t.byteAt 0x01FF, t.byteAt 0x01FE, t.sp, t.pc)) (exec (.jsrAbs 0x0400) { at300 [] with sp := 0xFF }) =
      some (0x03, 0x02, 0xFD, 0x0400) := by decide

theorem test_rts_example :
    seen (fun t => (t.sp, t.pc)) (exec .rts { at300 [(0x01FE, 0x02), (0x01FF, 0x03)] with sp := 0xFD }) = some (0xFF, 0x0303) := by decide

/-- The examples of R160. -/
theorem test_brk_examples :
    ([fl 1 0 0 0 0 1, fl 0 1 1 1 1 0].map fun p => seen (fun t => (t.byteAt 0x01FF, t.byteAt 0x01FE, t.byteAt 0x01FD, t.sp, t.pc, t.p))
      (exec .brk { at300 [(0xFFFE, 0x00), (0xFFFF, 0x80)] with sp := 0xFF, p := p })) =
    [some (0x03, 0x02, 0xB1, 0xFC, 0x8000, fl 1 0 0 1 0 1), some (0x03, 0x02, 0x7E, 0xFC, 0x8000, fl 0 1 1 1 1 0)] := by rfl

/-- The examples of R161. -/
theorem test_rti_examples :
    ([[((0x01FD : Addr), (0xB1 : Byte)), (0x01FE, 0x02), (0x01FF, 0x03)], [(0x01FD, 0x00), (0x01FE, 0x34), (0x01FF, 0x12)]].map fun m =>
      seen (fun t => (t.sp, t.pc, t.p)) (exec .rti { at300 m with sp := 0xFC, p := fl 1 1 1 1 1 1 })) =
    [some (0xFF, 0x0302, fl 1 0 0 0 0 1), some (0xFF, 0x1234, fl 0 0 0 0 0 0)] := by decide

/-- The examples of R162 and R171 to R177: each instruction sets or clears its one flag. -/
theorem test_flag_examples :
    ([Instr.nop, .clc, .cld, .cli, .clv].map fun i => seen (fun t => (t.p, t.pc)) (exec i { at300 [] with p := fl 1 1 1 1 1 1 })) =
    [some (fl 1 1 1 1 1 1, 0x0301), some (fl 1 1 1 1 1 0, 0x0301), some (fl 1 1 0 1 1 1, 0x0301), some (fl 1 1 1 0 1 1, 0x0301),
      some (fl 1 0 1 1 1 1, 0x0301)] ∧
    ([Instr.sec, .sed, .sei].map fun i => seen (fun t => (t.p, t.pc)) (exec i (at300 []))) =
    [some (fl 0 0 0 0 0 1, 0x0301), some (fl 0 0 1 0 0 0, 0x0301), some (fl 0 0 0 1 0 0, 0x0301)] := by decide

/-- The examples of R181 and R184. -/
theorem test_incdec_memory_examples :
    ([(Instr.decZp 0x10, (0x01 : Byte), [((0x0010 : Addr), (0x00 : Byte))], (0x0010 : Addr)), (.decAbsX 0x20FF, 0x01, [(0x2100, 0x80)], 0x2100),
      (.incAbs 0x2000, 0x01, [(0x2000, 0x7F)], 0x2000), (.incZpX 0xF0, 0x20, [(0x0010, 0xFF)], 0x0010)].map
      fun (i, x, m, k) => seen (fun t => (t.byteAt k, t.p)) (exec i { at300 m with x := x, p := fl 0 1 0 0 0 1 })) =
    [some (0xFF, fl 1 1 0 0 0 1), some (0x7F, fl 0 1 0 0 0 1), some (0x80, fl 1 1 0 0 0 1), some (0x00, fl 0 1 0 0 1 1)] := by decide

/-- The examples of R182, R183, R185, R186. -/
theorem test_incdec_register_examples :
    ([(Instr.dex, (0x01 : Byte), (0x80 : Byte)), (.dey, 0x01, 0x80), (.inx, 0xFF, 0x7F), (.iny, 0xFF, 0x7F)].map
      fun (i, x, y) => seen (fun t => (t.x, t.y, t.p)) (exec i { at300 [] with x := x, y := y })) =
    [some (0x00, 0x80, fl 0 0 0 0 1 0), some (0x01, 0x7F, fl 0 0 0 0 0 0), some (0x00, 0x7F, fl 0 0 0 0 1 0),
      some (0xFF, 0x80, fl 1 0 0 0 0 0)] := by decide

/-- The examples of R191. -/
theorem test_lda_examples :
    ([(Instr.ldaImm 0x00, (0 : Byte), (0 : Byte), []), (.ldaIndY 0x10, 0, 0x10, [((0x0010 : Addr), (0xF8 : Byte)), (0x0011, 0x20), (0x2108, 0x42)]),
      (.ldaIndX 0x10, 0xF4, 0, [(0x0004, 0x00), (0x0005, 0x30), (0x3000, 0x99)])].map
      fun (i, x, y, m) => seen (fun t => (t.a, t.p)) (exec i { at300 m with a := 0x55, x := x, y := y, p := fl 1 0 0 0 0 0 })) =
    [some (0x00, fl 0 0 0 0 1 0), some (0x42, fl 0 0 0 0 0 0), some (0x99, fl 1 0 0 0 0 0)] := by decide

/-- The examples of R192 and R193. -/
theorem test_ldx_ldy_examples :
    ([(Instr.ldxZpY 0x10, (0 : Byte), (0xF5 : Byte), [((0x0005 : Addr), (0xFF : Byte))]), (.ldxAbsY 0x2000, 0, 0x03, [(0x2003, 0x00)]),
      (.ldyAbsX 0xFFF0, 0x20, 0, [(0x0010, 0x01)])].map fun (i, x, y, m) => seen (fun t => (t.x, t.y, t.p)) (exec i { at300 m with x := x, y := y })) =
    [some (0xFF, 0xF5, fl 1 0 0 0 0 0), some (0x00, 0x03, fl 0 0 0 0 1 0), some (0x20, 0x01, fl 0 0 0 0 0 0)] := by decide

/-- The examples of R194 to R196. -/
theorem test_store_examples :
    ([(Instr.staIndY 0x10, (0xAB : Byte), (0 : Byte), (0xFF : Byte), [((0x0010 : Addr), (0x01 : Byte)), (0x0011, 0x20)], (0x2100 : Addr)),
      (.staIndX 0x20, 0x5A, 0x04, 0, [(0x0024, 0x34), (0x0025, 0x12)], 0x1234), (.staAbsY 0x2080, 0x11, 0, 0x80, [], 0x2100),
      (.stxZpY 0xFF, 0, 0x66, 0x01, [], 0x0000), (.styZpX 0x10, 0, 0x05, 0x22, [], 0x0015)].map
      fun (i, a, x, y, m, k) => seen (fun t => (t.byteAt k, t.p)) (exec i { at300 m with a := a, x := x, y := y, p := fl 1 0 0 0 1 0 })) =
    [some (0xAB, fl 1 0 0 0 1 0), some (0x5A, fl 1 0 0 0 1 0), some (0x11, fl 1 0 0 0 1 0), some (0x66, fl 1 0 0 0 1 0),
      some (0x22, fl 1 0 0 0 1 0)] := by decide

/-- The examples of R201 and R202. -/
theorem test_push_examples :
    seen (fun t => (t.byteAt 0x0100, t.sp, t.pc)) (exec .pha { at300 [] with a := 0x42 }) = some (0x42, 0xFF, 0x0301) ∧
    ([fl 1 0 0 0 0 1, fl 0 0 0 0 0 0].map fun p => seen (fun t => (t.byteAt 0x01FF, t.sp)) (exec .php { at300 [] with sp := 0xFF, p := p })) =
    [some (0xB1, 0xFE), some (0x30, 0xFE)] := by decide

/-- The examples of R203 and R204. -/
theorem test_pull_examples :
    ([(Instr.pla, (0xFE : Byte), fl 0 0 0 0 0 0), (.pla, 0xFF, fl 1 0 0 0 0 0), (.plp, 0xFE, fl 0 0 0 0 0 0), (.plp, 0xFF, fl 1 1 1 1 1 1)].map
      fun (i, sp, p) => seen (fun t => (t.a, t.sp, t.p)) (exec i { at300 [(0x01FF, 0x80), (0x0100, 0x00)] with a := 0x07, sp := sp, p := p })) =
    [some (0x80, 0xFF, fl 1 0 0 0 0 0), some (0x00, 0x00, fl 0 0 0 0 1 0), some (0x07, 0xFF, fl 1 0 0 0 0 0),
      some (0x07, 0x00, fl 0 0 0 0 0 0)] := by decide

/-- The examples of R205 to R210. -/
theorem test_transfer_examples :
    ([Instr.tax, .tay, .tsx, .txa, .txs, .tya].map fun i => seen (fun t => (t.a, t.x, t.y, t.sp, t.p))
      (exec i { at300 [] with a := 0x00, x := 0x7F, y := 0x80, sp := 0xFF, p := fl 1 0 0 0 0 0 })) =
    [some (0x00, 0x00, 0x80, 0xFF, fl 0 0 0 0 1 0), some (0x00, 0x7F, 0x00, 0xFF, fl 0 0 0 0 1 0), some (0x00, 0xFF, 0x80, 0xFF, fl 1 0 0 0 0 0),
      some (0x7F, 0x7F, 0x80, 0xFF, fl 0 0 0 0 0 0), some (0x00, 0x7F, 0x80, 0x7F, fl 1 0 0 0 0 0),
      some (0x80, 0x7F, 0x80, 0xFF, fl 1 0 0 0 0 0)] := by decide

/-! ## Steps -/

/-- A loaded word is what the next step runs (`LDA #$80`, `JMP $1234`, and an unlisted opcode). -/
theorem test_step_runs_loaded_word :
    seen (fun t => (t.a, t.pc)) (step (State.reset.withFetchWord 16 0x80A9)) = some (0x80, 0x0202) ∧
    seen (fun t => t.pc) (step (State.reset.withFetchWord 24 0x12344C)) = some 0x1234 ∧
    step (State.reset.withFetchWord 8 0x02) = .refused (.unlistedOpcode 0x02) := ⟨rfl, rfl, rfl⟩

/-- An IRQ entry at $0300 with I = 0 pushes $03, $00 and P with B = 0, and goes through $FFFE (R230); with I = 1 the NOP runs. -/
theorem test_irq_entry :
    ([0, 1].map fun i => seen (fun t => (t.pc, t.sp, t.byteAt 0x01FF, t.byteAt 0x01FE, t.byteAt 0x01FD, t.p.i))
      (step { at300 [(0x0300, 0xEA), (0x01FD, 0), (0x01FE, 0), (0x01FF, 0), (0xFFFE, 0x00), (0xFFFF, 0x80)] with
        sp := 0xFF, p := fl 1 0 0 i 0 1, inputs := [⟨.none, false, true⟩] })) =
    [some (0x8000, 0xFC, 0x03, 0x00, 0xA1, true), some (0x0301, 0xFF, 0, 0, 0, true)] := by rfl

/-- The two kinds of reset are two events, both ahead of NMI and IRQ, and both go to the word at $FFFC (R223, R261). -/
theorem test_reset_events :
    let s (res : Reset) : State := { at300 [] with
      inputs := [⟨res, true, true⟩], sys := { System.specified with map := [⟨0x8000, 0xFFFF, .plain (.rom false)⟩] } }
    event (s .boundary) = .reset ∧ event (s .inside) = .resetInside ∧ event (s .none) = .nmi ∧
    seen (fun t => t.p.i) (step (s .inside)) = some true ∧ seen (fun t => t.pc) (step (s .boundary)) = some 0x0200 :=
  ⟨rfl, rfl, rfl, rfl, rfl⟩

/-- Number prefixes and a branch to a label (R96, R97). -/
theorem test_assembly :
    numberOf ['$', '1', '2'] = some 18 ∧ numberOf ['%', '1', '0'] = some 2 ∧ numberOf ['@', '1', '7'] = some 15 ∧
    displacementTo 0x0300 0x02FC = some 0xFA ∧ displacementTo 0x0300 0x0382 = none := by decide

/-! ## What meets the hypotheses of the statements -/

/-- RAM everywhere, PC = $0300, S = $FD, the flags 0. -/
def plainState : State := { at300 [] with sp := 0xFD }

/-- RAM everywhere and the given S. -/
def withSp (sp : Byte) : State := { plainState with sp := sp }

/-- D = 1, A = $99. -/
def decimalState : State := { at300 [] with a := 0x99, p := fl 0 0 1 0 0 1 }

/-- Nothing at $4000 to $7FFF, ROM at $8000 to $BFFF, a device at $C000. -/
def mappedState : State :=
  { plainState with sys := { System.specified with
      map := [⟨0x4000, 0x7FFF, .plain .nothing⟩, ⟨0x8000, 0xBFFF, .plain (.rom false)⟩, ⟨0xC000, 0xC000, .plain .device⟩] } }

/-- A state under another `PTR_PAGE_CROSS`. -/
def underPolicy (policy : PtrPageCross) : State := { plainState with sys := { System.specified with ptrPageCross := policy } }

theorem test_meets_AdcBinaryResult :
    adcForm (.immediate 0xFF) = some (0x69, .adcImm 0xFF) ∧ adcForm (.memory (.indY 0xFE)) = some (0x71, .adcIndY 0xFE) ∧
    plainState.p.d = false ∧ Operand.ready (.immediate 0xFF) plainState = true ∧
    Operand.ready (.memory (.indY 0xFE)) plainState = true := ⟨rfl, rfl, rfl, rfl, rfl⟩

theorem test_meets_SbcBinaryResult :
    sbcForm (.memory (.absoluteX 0xFFFF)) = some (0xFD, .sbcAbsX 0xFFFF) ∧ plainState.p.d = false ∧
    Operand.ready (.memory (.absoluteX 0xFFFF)) plainState = true := ⟨rfl, rfl, rfl⟩

/-- A = $99 and `DATA` = $99, the largest digits, and `DATA` = $00, the smallest. -/
theorem test_meets_DecimalResultOfValidDigits :
    decimalState.p.d = true ∧ ([0x99, 0x00].all fun n => adcForm (.immediate n) = some (0x69, .adcImm n) &&
      sbcForm (.immediate n) = some (0xE9, .sbcImm n) && Operand.ready (.immediate n) decimalState &&
      decide (decimalState.a.toNat / 16 ≤ 9 ∧ decimalState.a.toNat % 16 ≤ 9 ∧
        (Operand.data (.immediate n) decimalState).toNat / 16 ≤ 9 ∧ (Operand.data (.immediate n) decimalState).toNat % 16 ≤ 9)) = true := by
  decide

/-- A digit of $A in each of the four places in turn. -/
theorem test_meets_DecimalResultOfOtherDigits :
    ([(0xA0, 0x00), (0x0A, 0x00), (0x00, 0xA0), (0x00, 0x0A)].all fun (a, n) =>
      let s : State := { decimalState with a := a }
      adcForm (.immediate n) = some (0x69, .adcImm n) && sbcForm (.immediate n) = some (0xE9, .sbcImm n) && s.p.d &&
      Operand.ready (.immediate n) s &&
      decide (9 < s.a.toNat / 16 ∨ 9 < s.a.toNat % 16 ∨ 9 < (Operand.data (.immediate n) s).toNat / 16 ∨
        9 < (Operand.data (.immediate n) s).toNat % 16)) = true := by decide

theorem test_meets_SbcIsAdcOfComplement : plainState.p.d = false := rfl

theorem test_meets_OverflowFromSignBits :
    plainState.p.d = false ∧ (∃ t, exec (.adcImm 0x80) plainState = .next t) ∧ ∃ t, exec (.sbcImm 0x80) plainState = .next t :=
  ⟨rfl, ⟨_, rfl⟩, ⟨_, rfl⟩⟩

theorem test_meets_CmpResult :
    cmpForm (.memory (.indX 0xFE)) = some (0xC1, .cmpIndX 0xFE) ∧ Operand.ready (.memory (.indX 0xFE)) plainState = true ∧
    cmpForm (.immediate 0x00) = some (0xC9, .cmpImm 0x00) ∧ Operand.ready (.immediate 0x00) decimalState = true := ⟨rfl, rfl, rfl, rfl⟩

theorem test_meets_CpxCpyResult :
    cpxForm (.memory (.zeroPage 0xFF)) = some (0xE4, .cpxZp 0xFF) ∧ cpyForm (.memory (.absolute 0xFFFF)) = some (0xCC, .cpyAbs 0xFFFF) ∧
    Operand.ready (.memory (.zeroPage 0xFF)) plainState = true ∧ Operand.ready (.memory (.absolute 0xFFFF)) plainState = true :=
  ⟨rfl, rfl, rfl, rfl⟩

theorem test_meets_SixteenBitAddition : plainState.p.d = false ∧ plainState.kindAt (zext16 0xFF) = .ram := ⟨rfl, rfl⟩

theorem test_meets_LogicResults :
    andForm (.immediate 0x00) = some (0x29, .andImm 0x00) ∧ eorForm (.memory (.zeroPageX 0xFF)) = some (0x55, .eorZpX 0xFF) ∧
    oraForm (.memory (.absoluteY 0x0000)) = some (0x19, .oraAbsY 0x0000) ∧ Operand.ready (.immediate 0x00) plainState = true ∧
    Operand.ready (.memory (.zeroPageX 0xFF)) plainState = true ∧ Operand.ready (.memory (.absoluteY 0x0000)) plainState = true ∧
    (oraForm, fun a m => a || m) ∈
      [(andForm, fun (a m : Bool) => a && m), (eorForm, fun a m => a != m), (oraForm, fun a m => a || m)] :=
  ⟨rfl, rfl, rfl, rfl, rfl, rfl, .tail _ (.tail _ (.head _))⟩

theorem test_meets_BitResult :
    bitForm (.memory (.absolute 0xC000)) = some (0x2C, .bitAbs 0xC000) ∧
    Operand.ready (.memory (.absolute 0xC000)) mappedState = true := ⟨rfl, by decide⟩

theorem test_meets_ShiftAndRotateResults :
    aslForm .accumulator = some (0x0A, .aslAcc) ∧ rorForm (.memory (.absoluteX 0xFFFF)) = some (0x7E, .rorAbsX 0xFFFF) ∧
    plainState.readable (Place.address (.absoluteX 0xFFFF) plainState) = true ∧
    plainState.writable (Place.address (.absoluteX 0xFFFF) plainState) = true ∧
    (aslForm, (fun v _ => 2 * v % 256 : Nat → Bool → Nat), fun v : Byte => v.getLsbD 7) ∈
      [(aslForm, (fun v _ => 2 * v % 256 : Nat → Bool → Nat), fun v : Byte => v.getLsbD 7),
        (lsrForm, fun v _ => v / 2, fun v => v.getLsbD 0)] := ⟨rfl, rfl, rfl, rfl, .head _⟩

/-- BCC: not taken; taken within a page at the largest displacement and back to itself; taken across pages. -/
theorem test_meets_BranchResults :
    let untaken : State := { plainState with p := fl 0 0 0 0 0 1 }
    let target (pc : Addr) (n : Byte) : Addr := BitVec.ofInt 16 ((pc.toNat : Int) + 2 + n.toInt)
    (!untaken.p.c) = false ∧ (!plainState.p.c) = true ∧
    ([0x7F, 0xFE].all fun n => highByte (target 0x0300 n) = highByte (0x0300 + 2) && highByte (target 0x0300 n) = highByte 0x0300) = true ∧
    highByte (target 0x02F0 0x10) ≠ highByte (0x02F0 + 2) ∧ highByte (target 0x02F0 0x10) ≠ highByte 0x02F0 := by decide

/-- The pointer at $02FE, and at $02FF under each of the three choices. -/
theorem test_meets_JumpIndirect :
    ([(PtrPageCross.refuse, (0x02FE : Addr)), (.wrap, 0x02FF), (.next, 0x02FF)].all fun (policy, nn) =>
      let s := underPolicy policy
      let q : Addr := if lowByte nn = 0xFF ∧ s.sys.ptrPageCross = .wrap then wordOf 0 (highByte nn) else nn + 1
      decide (lowByte nn = 0xFF → s.sys.ptrPageCross ≠ .refuse) && s.readable nn && s.readable q) = true ∧
    lowByte 0x02FF = 0xFF ∧ (underPolicy .refuse).sys.ptrPageCross = .refuse := by decide

/-- S = $00: the second byte goes to $01FF. -/
theorem test_meets_JsrResult :
    ([0x00, 0xFF].all fun sp => plainState.writable (stackSlot (withSp sp) 0) && plainState.writable (stackSlot (withSp sp) 1)) = true ∧
    stackSlot (withSp 0x00) 1 = 0x01FF := by decide

theorem test_meets_RtsResult :
    ([0xFF, 0xFE, 0x00].all fun sp => plainState.readable (stackAbove (withSp sp) 1) && plainState.readable (stackAbove (withSp sp) 2)) = true := by decide

theorem test_meets_RtsReturnsAfterJsr :
    let s : State := { plainState with sp := 0x00 }
    s.kindAt (stackSlot s 0) = .ram ∧ s.kindAt (stackSlot s 1) = .ram ∧
    s.cellOf (stackSlot s 0) ≠ s.cellOf (stackSlot s 1) ∧
    ∃ t, exec (.jsrAbs 0x0400) s = .next t ∧ t.sys = s.sys := ⟨rfl, rfl, by decide, _, rfl, rfl⟩

/-- BRK with S = $01, whose third byte goes to $01FF. -/
theorem test_meets_BrkResult :
    ([0, 1, 2].all fun k => plainState.writable (stackSlot (withSp 0x01) k)) = true ∧ plainState.readable 0xFFFE = true ∧
    plainState.readable 0xFFFF = true ∧ plainState.sys.pushBits = .fixed := ⟨by decide, rfl, rfl, rfl⟩

/-- Three stack bytes across the end of page 1; a low IRQ line at the boundary after RTI. -/
theorem test_meets_RtiResult :
    let s : State := { plainState with sp := 0xFE, inputs := [⟨.none, false, true⟩] }
    ([1, 2, 3].all fun k => s.readable (stackAbove s k)) = true ∧ (∃ t, exec .rti s = .next t) ∧ s.now = ⟨.none, false, true⟩ ∧
    s.nmiPending = false ∧ s.heldMask = none := ⟨by decide, ⟨_, rfl⟩, rfl, rfl, rfl⟩

theorem test_meets_IncDecMemory :
    incForm (.zeroPageX 0xFF) = some (0xF6, .incZpX 0xFF) ∧ decForm (.absoluteX 0xFFFF) = some (0xDE, .decAbsX 0xFFFF) ∧
    plainState.readable (Place.address (.zeroPageX 0xFF) plainState) = true ∧
    plainState.writable (Place.address (.zeroPageX 0xFF) plainState) = true ∧
    (incForm, fun v => (v + 1) % 256) ∈ [(incForm, fun v => (v + 1) % 256), (decForm, fun v => (v + 255) % 256)] :=
  ⟨rfl, rfl, rfl, rfl, .head _⟩

/-- Both ends: 0 decrements to $FF, and $FF increments to 0. -/
theorem test_meets_IncDecRegisters :
    (0xFF : Byte).toNat = (plainState.x.toNat + 255) % 256 ∧ (0xFF : Byte).toNat = (plainState.y.toNat + 255) % 256 ∧
    (0x00 : Byte).toNat = ((0xFF : Byte).toNat + 1) % 256 ∧ (0x01 : Byte).toNat = (plainState.y.toNat + 1) % 256 := by decide

theorem test_meets_LdaResult :
    ldaForm (.memory (.indX 0xFE)) = some (0xA1, .ldaIndX 0xFE) ∧ Operand.ready (.memory (.indX 0xFE)) plainState = true ∧
    Operand.ready (.memory (.absolute 0xC000)) mappedState = true := ⟨rfl, rfl, by decide⟩

theorem test_meets_LdxResult :
    ldxForm (.memory (.zeroPageY 0xFF)) = some (0xB6, .ldxZpY 0xFF) ∧ Operand.ready (.memory (.zeroPageY 0xFF)) plainState = true := ⟨rfl, rfl⟩

theorem test_meets_LdyResult :
    ldyForm (.immediate 0x80) = some (0xA0, .ldyImm 0x80) ∧ Operand.ready (.immediate 0x80) plainState = true := ⟨rfl, rfl⟩

/-- RAM below $4000, nothing from there, ROM from $8000: the addresses where the clauses meet. -/
theorem test_meets_StoreResults :
    ([0x3FFF, 0x4000, 0x7FFF, 0x8000, 0xBFFF, 0xC000].all fun a => staForm (.absolute a) = some (0x8D, .staAbs a) &&
      Place.reachable (.absolute a) mappedState) = true ∧
    mappedState.writable 0x3FFF = true ∧ mappedState.writable 0xC000 = true ∧ mappedState.kindAt 0x4000 = .nothing ∧
    mappedState.kindAt 0x7FFF = .nothing ∧ mappedState.kindAt 0x8000 = .rom false ∧ mappedState.kindAt 0xBFFF = .rom false := by decide

theorem test_meets_PhaResult :
    plainState.writable (stackSlot (withSp 0x00) 0) = true ∧ plainState.writable (stackSlot (withSp 0xFF) 0) = true ∧
    plainState.sys.stackPage = 0x01 := ⟨rfl, rfl, rfl⟩

theorem test_meets_PhpResult : plainState.writable (stackSlot (withSp 0x00) 0) = true ∧ plainState.sys.pushBits = .fixed := ⟨rfl, rfl⟩

theorem test_meets_PlaResult : plainState.readable (stackAbove (withSp 0xFF) 1) = true ∧ stackAbove (withSp 0xFF) 1 = 0x0100 := ⟨rfl, rfl⟩

theorem test_meets_PlpResult : plainState.readable (stackAbove (withSp 0xFF) 1) = true := rfl

theorem test_meets_PullUndoesPush : plainState.kindAt (stackSlot plainState 0) = .ram := rfl

/-- A store at $0010 leaves $000F and $0011; a map without mirrors. -/
theorem test_meets_MemoryFrame :
    (∃ t, exec (.staZp 0x10) plainState = .next t) ∧
    ([0x000F, 0x0011].all fun a => (storesTo (.staZp 0x10) plainState).all fun b => plainState.cellOf a ≠ plainState.cellOf b) = true ∧
    ∀ r ∈ mappedState.sys.map, ∃ k, r.kind = .plain k := by
  refine ⟨⟨_, rfl⟩, by decide, fun r hr => ?_⟩
  simp only [mappedState, List.mem_cons, List.not_mem_nil, or_false] at hr
  rcases hr with rfl | rfl | rfl <;> exact ⟨_, rfl⟩

theorem test_meets_RegisterFrame :
    (∃ t, exec .nop plainState = .next t) ∧ writesA .nop = false ∧ writesX .nop = false ∧ writesY .nop = false ∧
    writesS .nop = false := ⟨⟨_, rfl⟩, rfl, rfl, rfl, rfl⟩

theorem test_meets_FlagFrame :
    (∃ t, exec (.staAbs 0x2000) plainState = .next t) ∧ flagsWritten (.staAbs 0x2000) = fl 0 0 0 0 0 0 := ⟨⟨_, rfl⟩, rfl⟩

theorem test_meets_PcAdvancesByLength : (∃ t, exec (.ldaImm 0x00) plainState = .next t) ∧ transfersControl (.ldaImm 0x00) = false :=
  ⟨⟨_, rfl⟩, rfl⟩

/-- CLI under the spec's `I_LATENCY`, NOP under the other; PHP without a draw. -/
theorem test_meets_OtherStateFrame :
    (∃ t, exec .cli plainState = .next t) ∧ plainState.sys.iLatency = .none ∧ Instr.nop ∉ [Instr.cli, .sei, .plp] ∧
    (∃ t, exec .php plainState = .next t) ∧ readsD .nop = false ∧ plainState.p.d = false ∧ plainState.sys.pushBits = .fixed :=
  ⟨⟨_, rfl⟩, rfl, by decide, ⟨_, rfl⟩, rfl, rfl, rfl⟩

theorem test_meets_ReadsOnlyNamedRegisters :
    readsA (.ldxImm 0x00) = false ∧ readsX (.ldxImm 0x00) = false ∧ readsY (.ldxImm 0x00) = false ∧ writesS (.ldxImm 0x00) = false ∧
    Instr.ldxImm 0x00 ≠ .tsx ∧ readsD (.cmpImm 0x00) = false := by decide

/-- Pointers at $00FE, the last that crosses no page, in plain memory. -/
theorem test_meets_EffectiveAddresses :
    (0xFE : Addr).toNat = ((0xFE : Byte).toNat + plainState.x.toNat) % 256 ∧ (0xFE : Addr).toNat = (0xFE : Byte).toNat ∧
    (0xFE : Addr) ≠ 0xFF ∧ plainState.plain 0xFE = true ∧ plainState.plain (0xFE + 1) = true := by decide

/-- Pointers at $00FF under each of the three choices. -/
theorem test_meets_PointerAcrossPage :
    ((0xFF : Byte).toNat + plainState.x.toNat) % 256 = 255 ∧ (underPolicy .refuse).sys.ptrPageCross = .refuse ∧
    ((underPolicy .wrap).sys.ptrPageCross = .wrap ∧ (underPolicy .wrap).plain 0x0000 = true) ∧
    ((underPolicy .next).sys.ptrPageCross = .next ∧ (underPolicy .next).plain 0x0100 = true) ∧
    (underPolicy .wrap).plain 0x00FF = true ∧ adcForm ∈ [adcForm, sbcForm] := ⟨by decide, rfl, ⟨rfl, rfl⟩, ⟨rfl, rfl⟩, rfl, .head _⟩

/-- Where the four kinds meet; two addresses of different cells. -/
theorem test_meets_MemoryHoldsWhatWasWritten :
    mappedState.plain 0x3FFF = true ∧ mappedState.kindAt 0x3FFF = .ram ∧ mappedState.kindAt 0x8000 = .rom false ∧
    mappedState.plain 0xBFFF = true ∧ mappedState.kindAt 0x4000 = .nothing ∧ mappedState.cellOf 0x3FFE ≠ mappedState.cellOf 0x3FFF := by
  decide

theorem test_meets_AccessesInOrder : ∃ t, exec (.incAbs 0xFFFF) plainState = .next t := ⟨_, rfl⟩

theorem test_meets_DecodeOfEncode : Instr.wellFormed true .rorAcc = true ∧ Instr.wellFormed false (.jmpAbs 0xFFFF) = true := ⟨rfl, rfl⟩

theorem test_meets_EncodeOfDecode :
    decode true [0x6A, 0x00] = .ok (.rorAcc, [0x00]) ∧ decode false [0x4C, 0xFF, 0xFF] = .ok (.jmpAbs 0xFFFF, []) := ⟨rfl, rfl⟩

theorem test_meets_UnlistedOpcodesRefused :
    let s := at300 [(0x0300, 0x02)]
    let r : State := { at300 [(0x0300, 0x6A)] with sys := { System.specified with hasRor := false } }
    (event s = .instruction ∧ s.plain s.pc = true ∧ s.byteAt s.pc ∈ unlistedOpcodes) ∧
    (event r = .instruction ∧ r.plain r.pc = true ∧ r.sys.hasRor = false ∧ r.byteAt r.pc ∈ [0x66, 0x6A, 0x6E, 0x76, 0x7E]) := by decide

/-- Instructions of one and of three bytes, the second across the top of memory; one under a low IRQ line and I = 1. -/
theorem test_meets_StepRunsDecodedInstruction :
    let one : State := { at300 [(0x0300, 0xEA)] with p := fl 0 0 0 1 0 0, inputs := [⟨.none, false, true⟩] }
    let top : State := { at300 [(0xFFFE, 0x4C), (0xFFFF, 0x34), (0x0000, 0x12)] with pc := 0xFFFE }
    (event one = .instruction ∧ ∃ rest, decode one.sys.hasRor [one.byteAt 0x0300, one.byteAt 0x0301, one.byteAt 0x0302] = .ok (.nop, rest)) ∧
    (event top = .instruction ∧
      decode top.sys.hasRor [top.byteAt top.pc, top.byteAt (top.pc + 1), top.byteAt (top.pc + 2)] = .ok (.jmpAbs 0x1234, [])) ∧
    ∀ k, k < 3 → top.plain (top.pc + BitVec.ofNat 16 k) = true := by
  refine ⟨⟨rfl, _, rfl⟩, ⟨rfl, rfl⟩, by decide⟩

/-- A reset at a boundary under an NMI and an IRQ as well, and one that cut an instruction short; $3FFF is the last RAM address below
the hole, and no RAM address selects the ROM cell $8000. -/
theorem test_meets_ResetTaken :
    let s : State := { plainState with inputs := [⟨.boundary, true, true⟩] }
    let u : State := { mappedState with inputs := [⟨.inside, true, true⟩] }
    (s.now.res ≠ .none ∧ s.readable 0xFFFC = true ∧ s.readable 0xFFFD = true ∧ s.now.res = .boundary) ∧
    (u.now.res ≠ .none ∧ u.readable 0xFFFC = true ∧ u.readable 0xFFFD = true ∧ u.now.res = .inside ∧ u.kindAt 0x3FFF = .ram) ∧
    ∀ b : Addr, u.kindAt b = .ram → u.cellOf b ≠ 0x8000 := by
  refine ⟨by decide, by decide, fun b hb hc => ?_⟩
  have plain : mappedState.cellOf b = b := by
    simp only [State.cellOf, mappedState, locate]; split <;> (try split) <;> (try split) <;> rfl
  have e : b = 0x8000 := plain.symm.trans hc
  subst e
  exact absurd hb (by decide)

/-- A latched NMI, a new NMI edge with a low IRQ line, and an IRQ alone. -/
theorem test_meets_InterruptEntry :
    let latched : State := { plainState with nmiPending := true }
    let edge : State := { plainState with inputs := [⟨.none, true, true⟩] }
    let irq : State := { plainState with inputs := [⟨.none, false, true⟩] }
    (latched.now.res = .none ∧ latched.nmiPending = true) ∧ (edge.now.res = .none ∧ edge.now.nmi = true) ∧
    (irq.now.res = .none ∧ irq.nmiPending = false ∧ irq.now.nmi = false ∧ irq.now.irq = true ∧ irq.heldMask.getD irq.p.i = false) ∧
    ([0, 1, 2].all fun k => irq.writable (stackSlot irq k)) = true ∧
    ([0xFFFA, 0xFFFB, 0xFFFE, 0xFFFF].all fun a => irq.readable a) = true := by decide

theorem test_meets_LosingInputsIgnored :
    ({ plainState with inputs := [⟨.boundary, true, true⟩] } : State).now.res ≠ .none ∧
    ({ plainState with inputs := [⟨.inside, true, true⟩] } : State).now.res ≠ .none ∧
    (plainState.now.res = .none ∧ ({ plainState with nmiPending := true } : State).nmiPending = true) ∧
    (plainState.heldMask.getD true) = true ∧ State.reset.heldMask.getD State.reset.p.i = true := by decide

theorem test_meets_ChangeOfIGovernsNextBoundary :
    let s : State := { plainState with inputs := [⟨.none, false, true⟩] }
    s.now = ⟨.none, false, true⟩ ∧ s.nmiPending = false ∧ s.heldMask = none ∧ s.sys.iLatency = .none ∧
    ({ s with sys := { s.sys with iLatency := .oneInstruction } } : State).sys.iLatency = .oneInstruction := ⟨rfl, rfl, rfl, rfl, rfl⟩

/-- An NMI and an IRQ entry at S = $01, whose stack bytes are at $0101, $0100 and $01FF. -/
theorem test_meets_RtiResumesInterruptedProgram :
    let s (nmi : Bool) : State := { plainState with sp := 0x01, inputs := [⟨.none, nmi, true⟩] }
    (event (s true) = .nmi ∧ ∃ t, step (s true) = .next t) ∧ (event (s false) = .irq ∧ ∃ t, step (s false) = .next t) ∧
    (∀ k, k < 3 → (s false).kindAt (stackSlot (withSp 0x01) k) = .ram) ∧
    ∀ j k, j < k → k < 3 → (s false).cellOf (stackSlot (withSp 0x01) j) ≠ (s false).cellOf (stackSlot (withSp 0x01) k) := by
  refine ⟨⟨rfl, _, rfl⟩, ⟨rfl, _, rfl⟩, fun k _ => rfl, fun j k hj hk => ?_⟩
  have : ∀ k, k < 3 → ∀ j, j < k → plainState.cellOf (stackSlot (withSp 0x01) j) ≠ plainState.cellOf (stackSlot (withSp 0x01) k) := by decide
  exact this k hk j hj

theorem test_meets_EveryStepKeepsInvariant :
    State.reset.wf = true ∧ (∃ t, step (State.reset.withFetchWord 8 0xEA) = .next t) ∧
    (State.reset.withFetchWord 8 0xEA).wf = true := ⟨rfl, ⟨_, rfl⟩, rfl⟩

/-- RAM everywhere; the three outcomes all occur. -/
theorem test_meets_OnlyTwoRefusals :
    (∀ a : Addr, plainState.writable a = true) ∧
    step (at300 [(0x0300, 0x02)]) = .refused (.unlistedOpcode 0x02) ∧
    step (at300 [(0x0300, 0xB1), (0x0301, 0xFF)]) = .refused (.pointerCrossesPage 0x00FF) ∧
    ∃ t, step (at300 [(0x0300, 0xEA)]) = .next t := ⟨fun _ => rfl, rfl, rfl, _, rfl⟩

end Sys2Proof.Tests
end

section
/-! What the RES vector holds right after reset (spec/10_state.md R33, spec/20_memory.md R48). -/

namespace Sys2Proof.Machine

/-- With no map every address is a cell of its own (R46). -/
theorem State.cellOf_of_map_nil {s : State} (h : s.sys.map = []) (a : Addr) : s.cellOf a = a := by
  unfold State.cellOf; rw [h, locate]

/-- With no map and nothing written, a cell of known content holds that content. -/
theorem State.byteAt_of_unlisted {s : State} (hmap : s.sys.map = []) (hmem : s.mem = []) {a : Addr} {v : Byte}
    (hv : Memory.unlisted a.toNat = some v) : s.byteAt a = v := by
  unfold State.byteAt Memory.byteAt
  rw [State.cellOf_of_map_nil hmap, hmem, Memory.listed]
  simp only [hv, Option.getD_some]

theorem reset_byteAt_resVector : State.reset.byteAt 0xFFFC = lowByte resetEntry :=
  State.byteAt_of_unlisted rfl rfl rfl

theorem reset_byteAt_resVector_succ : State.reset.byteAt 0xFFFD = highByte resetEntry :=
  State.byteAt_of_unlisted rfl rfl rfl

/-- Settles O59: the two bytes of the vector are those of the entry address, and an address is the word of its two bytes. -/
theorem resetValues : Obligations.ResetValues := by
  have hpc : State.reset.pc = wordOf (State.reset.byteAt 0xFFFC) (State.reset.byteAt 0xFFFD) := by
    rw [reset_byteAt_resVector, reset_byteAt_resVector_succ, wordOf_bytes]; rfl
  exact ⟨rfl, hpc⟩

end Sys2Proof.Machine
end

section
/-! CMP in all its forms (spec/40_arithmetic.md R114): the rows, the flags in the arithmetic of the rule, the next state. -/

namespace Sys2Proof.Machine

/-- Bit 7 of a byte difference, on the exact difference modulo 256. -/
theorem getLsbD_sub_seven (r m : Byte) : (r - m).getLsbD 7 = decide (128 ≤ (r.toNat + 256 - m.toNat) % 256) := by
  have hm := m.isLt
  have hdiff : (r - m).toNat = (r.toNat + 256 - m.toNat) % 256 := by rw [BitVec.toNat_sub]; omega
  rw [← hdiff]
  exact BitVec.msb_eq_decide (r - m)

/-- The flags of a compare in the arithmetic of R114: N from `r - m` modulo 256, Z on equality, C on unsigned `r >= m`. -/
theorem compareFlags_eq (f : Flags) (r m : Byte) : compareFlags f r m =
    { f with
      n := decide (128 ≤ (r.toNat + 256 - m.toNat) % 256), z := decide (r = m), c := decide (m.toNat ≤ r.toNat) } := by
  rw [← getLsbD_sub_seven]; rfl

/-- A ready operand makes an instruction of the reading class answer. -/
theorem readClass_ready {o : Operand} {s : State} (h : o.ready s = true) (e : Byte → State → State) :
    readClass o e s = .next ((e (o.data s) (o.fetched s)).advance o.length) :=
  readClass_eq_next.mpr ⟨h, rfl⟩

/-- Comparing after the read of `DATA` sees the registers from before it: reading changes only the record. -/
theorem compareA_fetched_advance (o : Operand) (s : State) (m : Byte) (len : Nat) :
    (compareA m (o.fetched s)).advance len = { o.fetched s with
      pc := s.pc + BitVec.ofNat 16 len, p := compareFlags s.p s.a m } := by
  rw [fetched_eq]; rfl

/-- The eight rows of CMP in the table (R90): opcode, length and cycles. -/
theorem cmpForm_hasRow {o : Operand} {op : Byte} {i : Instr} (h : cmpForm o = some (op, i)) :
    HasRow i op o.length (readCost o).1 (readCost o).2 := by
  rcases o with _ | _ | p
  case memory => cases p <;> cases h <;> exact ⟨rfl, rfl, rfl, rfl⟩
  all_goals cases h <;> exact ⟨rfl, rfl, rfl, rfl⟩

/-- Settles O7: CMP is of the reading class in each form, and its effect is the compare of A, which consults neither C nor D. -/
theorem cmpResult : Obligations.CmpResult := by
  intro o op i hform
  refine ⟨cmpForm_hasRow hform, fun s hready => ?_⟩
  rw [cmpForm_exec hform, readClass_ready hready, compareA_fetched_advance, compareFlags_eq]

end Sys2Proof.Machine
end

section
/-! JMP nn, JSR and RTS (spec/43_branch_jump.md R149, R151, R152): the stack operations on words answer when their two stack bytes do,
and what they answer in the slots and the arithmetic of the rules. -/

namespace Sys2Proof.Machine

/-! ## The stack slots of a word -/

theorem stackSlot_zero (s : State) : stackSlot s 0 = stackAddr s.sys.stackPage s.sp := by
  rw [stackSlot_eq, BitVec.sub_zero]

/-- Two pushes leave S two less, modulo 256 (R50, R52). -/
theorem sp_sub_one_sub_one (sp : Byte) : sp - 1 - 1 = sp - 2 := by bv_omega

/-- Two pulls leave S two more, modulo 256 (R51, R52). -/
theorem sp_add_one_add_one (sp : Byte) : sp + 1 + 1 = sp + 2 := by bv_omega

/-- With both stack bytes writable a word is pushed, its high byte into the slot S points to (R52). -/
theorem pushWord_ready {s : State} (h0 : s.writable (stackSlot s 0) = true) (h1 : s.writable (stackSlot s 1) = true) (w : Addr) :
    pushWord w s = .next
      (((s.afterWrite (stackSlot s 0) (highByte w)).afterWrite (stackSlot s 1) (lowByte w)).setSp (s.sp - 2)) := by
  rw [stackSlot_zero] at h0 ⊢
  refine pushWord_eq_next.mpr ⟨h0, h1, ?_⟩
  rw [afterWrite_setSp, sp_sub_one_sub_one]
  rfl

/-- With both stack bytes readable a word is pulled, its low byte first (R52). -/
theorem pullWord_ready {s : State} (h1 : s.readable (stackAbove s 1) = true) (h2 : s.readable (stackAbove s 2) = true) :
    pullWord s = .next
      (wordOf (s.readValue (stackAbove s 1)) ((s.afterRead (stackAbove s 1)).readValue (stackAbove s 2)),
        ((s.afterRead (stackAbove s 1)).afterRead (stackAbove s 2)).setSp (s.sp + 2)) := by
  have hslot : stackAbove s 2 = stackAddr s.sys.stackPage (s.sp + 1 + 1) := by rw [sp_add_one_add_one]; rfl
  rw [hslot] at h2 ⊢
  refine pullWord_eq_next.mpr ⟨h1, h2, rfl, ?_⟩
  rw [sp_add_one_add_one]
  rfl

/-! ## The pulled word in the arithmetic of the rule -/

/-- The address after a pulled word, modulo 65536 (R18, R152). -/
theorem wordOf_add_one (l h : Byte) : wordOf l h + 1 = BitVec.ofNat 16 ((l.toNat + 256 * h.toNat + 1) % 65536) := by
  apply BitVec.eq_of_toNat_eq
  rw [BitVec.toNat_add, wordOf_toNat, BitVec.toNat_ofNat, Nat.mod_mod]
  rfl

/-! ## The statements -/

/-- Settles O17: JSR pushes the word `a + 2` and sets PC. -/
theorem jsrResult : Obligations.JsrResult := by
  intro nn s
  refine ⟨⟨rfl, rfl, rfl, rfl⟩, fun h0 h1 => ?_⟩
  rw [exec_jsrAbs, execJsrAbs, pushWord_ready h0 h1, andThen_next, highByte_eq, lowByte_eq, BitVec.toNat_add]
  rfl

/-- Settles O18: RTS pulls a word and sets PC to the address after it. -/
theorem rtsResult : Obligations.RtsResult := by
  intro s
  refine ⟨⟨rfl, rfl, rfl, rfl⟩, fun h1 h2 => ?_⟩
  rw [exec_rts, execRts, pullWord_ready h1 h2, andThen_next, wordOf_add_one]
  rfl

/-- Settles O15: the meaning of JMP nn sets PC and no other field. -/
theorem jumpAbsolute : Obligations.JumpAbsolute := by
  intro nn s
  exact ⟨⟨rfl, rfl, rfl, rfl⟩, exec_jmpAbs nn s⟩

end Sys2Proof.Machine
end

section
/-! RTI and NOP (spec/44_system.md R161, R162): when the return from an interrupt answers and with what, and what the boundary right
after it sees. -/

namespace Sys2Proof.Machine

/-! ## The stack bytes of RTI -/

/-- One pull moves the view of the bytes above S by one (R51). -/
theorem stackAbove_of_sp_succ {s t : State} (hsys : t.sys = s.sys) (hsp : t.sp = s.sp + 1) (k : Nat) :
    stackAbove t k = stackAbove s (k + 1) := by
  rw [stackAbove_eq, stackAbove_eq, hsys, hsp, BitVec.add_assoc, Nat.add_comm k 1, BitVec.ofNat_add]
  rfl

/-- A pull in terms of the byte above S. -/
theorem pull_eq_next_stackAbove {s t : State} {v : Byte} :
    pull s = .next (v, t) ↔ s.readable (stackAbove s 1) = true ∧ v = s.readValue (stackAbove s 1) ∧
      t = (s.afterRead (stackAbove s 1)).setSp (s.sp + 1) :=
  pull_eq_next

/-- A pull of a word in terms of the two bytes above S. -/
theorem pullWord_eq_next_stackAbove {s t : State} {w : Addr} :
    pullWord s = .next (w, t) ↔ s.readable (stackAbove s 1) = true ∧ s.readable (stackAbove s 2) = true ∧
      w = wordOf (s.readValue (stackAbove s 1)) ((s.afterRead (stackAbove s 1)).readValue (stackAbove s 2)) ∧
      t = ((s.afterRead (stackAbove s 1)).afterRead (stackAbove s 2)).setSp (s.sp + 2) := by
  constructor
  · intro h
    obtain ⟨h1, h2, -, -⟩ := pullWord_eq_next.mp h
    rw [sp_add_one_add_one] at h2
    have hready := h.symm.trans (pullWord_ready h1 h2)
    simp only [Host.Outcome.next.injEq, Prod.mk.injEq] at hready
    exact ⟨h1, h2, hready⟩
  · rintro ⟨h1, h2, rfl, rfl⟩
    exact pullWord_ready h1 h2

/-! ## The return -/

/-- The state half-way through RTI: P is pulled, PC is not. -/
def State.flagsPulled (s : State) : State :=
  ((s.afterRead (stackAbove s 1)).setSp (s.sp + 1)).setP (flagsOf (s.readValue (stackAbove s 1)))

theorem stackAbove_flagsPulled (s : State) (k : Nat) : stackAbove s.flagsPulled k = stackAbove s (k + 1) :=
  stackAbove_of_sp_succ (t := s.flagsPulled) (s := s) rfl rfl k

/-- "Pop P, Pop PC" (R161): RTI reads its first byte, then pulls a word from the state half-way. -/
theorem exec_rti_eq_next_pullWord {s t : State} :
    exec .rti s = .next t ↔
      s.readable (stackAbove s 1) = true ∧ ∃ w v, pullWord s.flagsPulled = .next (w, v) ∧ t = v.setPc w := by
  rw [exec_rti, execRti, returnFromInterrupt_eq_next]
  simp only [pull_eq_next_stackAbove]
  constructor
  · rintro ⟨b, u, w, v, ⟨h1, rfl, rfl⟩, hword, rfl⟩
    exact ⟨h1, w, v, hword, rfl⟩
  · rintro ⟨h1, w, v, hword, rfl⟩
    exact ⟨_, _, w, v, ⟨h1, rfl, rfl⟩, hword, rfl⟩

/-- The state after RTI: the flags from the first of its three stack bytes, PC with no increment from the other two (R161). -/
def State.afterRti (s : State) : State :=
  let s1 := s.afterRead (stackAbove s 1)
  let s2 := s1.afterRead (stackAbove s 2)
  { s2.afterRead (stackAbove s 3) with
    sp := s.sp + 3, p := flagsOf (s.readValue (stackAbove s 1))
    pc := wordOf (s1.readValue (stackAbove s 2)) (s2.readValue (stackAbove s 3)) }

/-- The two bytes of PC are read from the state half-way as they would be from the state before, three bytes above S in all. -/
theorem afterRti_eq (s : State) :
    (((s.flagsPulled.afterRead (stackAbove s 2)).afterRead (stackAbove s 3)).setSp (s.flagsPulled.sp + 2)).setPc
        (wordOf (s.flagsPulled.readValue (stackAbove s 2))
          ((s.flagsPulled.afterRead (stackAbove s 2)).readValue (stackAbove s 3))) = s.afterRti := by
  have hsp : s.flagsPulled.sp + 2 = s.sp + 3 := BitVec.add_assoc s.sp 1 2
  rw [hsp]
  rfl

/-- RTI answers exactly when its three stack bytes can be read. -/
theorem exec_rti_eq_next {s t : State} :
    exec .rti s = .next t ↔
      s.readable (stackAbove s 1) = true ∧ s.readable (stackAbove s 2) = true ∧ s.readable (stackAbove s 3) = true ∧
      t = s.afterRti := by
  have hreadable (a : Addr) : s.flagsPulled.readable a = s.readable a := State.readable_congr rfl a
  rw [exec_rti_eq_next_pullWord]
  simp only [pullWord_eq_next_stackAbove, stackAbove_flagsPulled, hreadable]
  constructor
  · rintro ⟨h1, w, v, ⟨h2, h3, rfl, rfl⟩, rfl⟩
    exact ⟨h1, h2, h3, afterRti_eq s⟩
  · rintro ⟨h1, h2, h3, rfl⟩
    exact ⟨h1, _, _, ⟨h2, h3, rfl, rfl⟩, (afterRti_eq s).symm⟩

/-! ## The boundary right after -/

/-- With the IRQ line low and nothing that outranks it, a boundary at which no mask is held takes the IRQ exactly when I is 0
(R223, R224). -/
theorem event_eq_irq_iff_flag {s : State} (hnow : s.now = ⟨.none, false, true⟩) (hnmi : s.nmiPending = false)
    (hmask : s.heldMask = none) : event s = .irq ↔ s.p.i = false := by
  simp [event_eq_irq, State.nmiSeen, State.irqMask, hnow, hnmi, hmask]

/-! ## The statements -/

/-- Settles O21: the answer of RTI is the state of `exec_rti_eq_next`; it keeps the inputs, the NMI latch and the held mask, so at the
next boundary the pulled I alone decides. -/
theorem rtiResult : Obligations.RtiResult := by
  intro s
  refine ⟨⟨rfl, rfl, rfl, rfl⟩, fun h1 h2 h3 => ?_, fun t ht hnow hnmi hmask => ?_⟩
  · intro p s1 l s2 h
    rw [← wordOf_eq]
    exact exec_rti_eq_next.mpr ⟨h1, h2, h3, rfl⟩
  · obtain ⟨-, -, -, rfl⟩ := exec_rti_eq_next.mp ht
    exact event_eq_irq_iff_flag hnow hnmi hmask

/-- Settles O22: the meaning of NOP is the advance of PC by its one byte. -/
theorem nopResult : Obligations.NopResult := by
  intro s
  exact ⟨⟨rfl, rfl, rfl, rfl⟩, exec_nop s⟩

end Sys2Proof.Machine
end

section
/-! CLC, CLD, CLV, SEC and SED (spec/45_flag_ops.md R170 to R172, R174 to R176): each sets P and advances PC by its one byte. -/

namespace Sys2Proof.Machine

/-- Setting P in an instruction of one byte changes P and PC and no other field. -/
theorem setP_advance_one (s : State) (f : Flags) : (s.setP f).advance 1 = { s with pc := s.pc + 1, p := f } := rfl

/-- Settles O23: each of the five answers the state with its one flag set in P and PC advanced by 1. -/
theorem flagInstructionResults : Obligations.FlagInstructionResults := by
  intro s
  refine ⟨⟨⟨rfl, rfl, rfl, rfl⟩, ?clc⟩, ⟨⟨rfl, rfl, rfl, rfl⟩, ?cld⟩, ⟨⟨rfl, rfl, rfl, rfl⟩, ?clv⟩,
    ⟨⟨rfl, rfl, rfl, rfl⟩, ?sec⟩, ⟨⟨rfl, rfl, rfl, rfl⟩, ?sed⟩⟩
  case clc => rw [exec_clc, execClc, setP_advance_one]
  case cld => rw [exec_cld, execCld, setP_advance_one]
  case clv => rw [exec_clv, execClv, setP_advance_one]
  case sec => rw [exec_sec, execSec, setP_advance_one]
  case sed => rw [exec_sed, execSed, setP_advance_one]

end Sys2Proof.Machine
end

section
/-! STA, STX and STY (spec/47_load_store.md R194 to R196): the rows, and the three outcomes of a store whose address can be formed,
one for each answer of `MEM` (R46). -/

namespace Sys2Proof.Machine

/-! ## The writes that `MEM` refuses (R46) -/

theorem writeByte_rom {a : Addr} {s : State} (h : s.kindAt a = .rom false) (v : Byte) :
    writeByte a v s = .refused (.romWrite a) := by
  simp [writeByte, State.writable, h]

theorem writeByte_nothing {a : Addr} {s : State} (h : s.kindAt a = .nothing) (v : Byte) :
    writeByte a v s = .refused (.nothingAt a) := by
  simp [writeByte, State.writable, h]

/-! ## The outcomes of the storing class -/

/-- The write and the pointer reads keep PC, so it advances from where the instruction stood (R17). -/
theorem afterWrite_settled_advance (p : Place) (s : State) (a : Addr) (v : Byte) (len : Nat) :
    ((p.settled s).afterWrite a v).advance len =
      { (p.settled s).afterWrite a v with pc := s.pc + BitVec.ofNat 16 len } := by
  rw [State.advance, State.afterWrite_pc, settled_pc]
  rfl

section
variable {p : Place} {s : State}

/-- Once the address is formed, the one write alone decides what the storing class answers. -/
theorem storeClass_reachable (h : p.reachable s = true) (v : Byte) :
    storeClass p v s = andThen (writeByte (p.address s) v (p.settled s)) fun t => .next (t.advance p.length) := by
  rw [storeClass, locate_ready h, andThen_next]

theorem storeClass_writable (h : p.reachable s = true) (hw : s.writable (p.address s) = true) (v : Byte) :
    storeClass p v s =
      .next { (p.settled s).afterWrite (p.address s) v with pc := s.pc + BitVec.ofNat 16 p.length } := by
  rw [← afterWrite_settled_advance]
  exact storeClass_eq_next.mpr ⟨h, hw, rfl⟩

theorem storeClass_rom (h : p.reachable s = true) (hk : s.kindAt (p.address s) = .rom false) (v : Byte) :
    storeClass p v s = .refused (.romWrite (p.address s)) := by
  have hsettled : (p.settled s).kindAt (p.address s) = .rom false := by rw [State.kindAt_congr (settled_sys p s), hk]
  rw [storeClass_reachable h, writeByte_rom hsettled, andThen_refused]

theorem storeClass_nothing (h : p.reachable s = true) (hk : s.kindAt (p.address s) = .nothing) (v : Byte) :
    storeClass p v s = .refused (.nothingAt (p.address s)) := by
  have hsettled : (p.settled s).kindAt (p.address s) = .nothing := by rw [State.kindAt_congr (settled_sys p s), hk]
  rw [storeClass_reachable h, writeByte_nothing hsettled, andThen_refused]

end

/-! ## The rows (R90) -/

section
variable {p : Place} {op : Byte} {i : Instr}

theorem staForm_hasRow (h : staForm p = some (op, i)) : HasRow i op p.length (storeCost p) false := by
  cases p <;> cases h <;> exact ⟨rfl, rfl, rfl, rfl⟩

theorem stxForm_hasRow (h : stxForm p = some (op, i)) : HasRow i op p.length (storeCost p) false := by
  cases p <;> cases h <;> exact ⟨rfl, rfl, rfl, rfl⟩

theorem styForm_hasRow (h : styForm p = some (op, i)) : HasRow i op p.length (storeCost p) false := by
  cases p <;> cases h <;> exact ⟨rfl, rfl, rfl, rfl⟩

end

/-! ## The statement -/

/-- Settles O30: the three mnemonics are one storing class that differ in the register, and what the class does turns on what `MEM`
has at the address. -/
theorem storeResults : Obligations.StoreResults := by
  intro f reg hmnemonic p op i hform
  have hstore : HasRow i op p.length (storeCost p) false ∧ ∀ s, exec i s = storeClass p (reg s) s := by
    simp only [List.mem_cons, List.not_mem_nil, or_false, Prod.mk.injEq] at hmnemonic
    obtain ⟨rfl, rfl⟩ | ⟨rfl, rfl⟩ | ⟨rfl, rfl⟩ := hmnemonic
    · exact ⟨staForm_hasRow hform, staForm_exec hform⟩
    · exact ⟨stxForm_hasRow hform, stxForm_exec hform⟩
    · exact ⟨styForm_hasRow hform, styForm_exec hform⟩
  obtain ⟨hrow, hexec⟩ := hstore
  refine ⟨hrow, fun s hreach => ?_⟩
  rw [hexec]
  exact ⟨fun hw => storeClass_writable hreach hw _, fun hk => storeClass_rom hreach hk _,
    fun hk => storeClass_nothing hreach hk _⟩

end Sys2Proof.Machine
end

section
/-! PHA (spec/48_stack_transfer.md R201): where the stack byte stands on the spec's page, and the one push of A. -/

namespace Sys2Proof.Machine

/-- With its stack byte writable a byte is pushed into the slot S points to, and S is one less (R50). -/
theorem push_ready {s : State} (h : s.writable (stackSlot s 0) = true) (v : Byte) :
    push v s = .next ((s.afterWrite (stackSlot s 0) v).setSp (s.sp - 1)) := by
  rw [stackSlot_zero] at h ⊢
  exact push_eq_next.mpr ⟨h, rfl⟩

/-- A write and the move of S keep PC, so it advances from where the instruction of one byte stood (R17). -/
theorem afterWrite_setSp_advance_one (s : State) (a : Addr) (v sp : Byte) :
    ((s.afterWrite a v).setSp sp).advance 1 = { s.afterWrite a v with sp := sp, pc := s.pc + 1 } := by
  rw [State.advance, State.setSp_pc, State.afterWrite_pc]
  rfl

/-- With the spec's `STACK_PAGE` the stack byte is at `$0100 + S`, with no wrap (R49). -/
theorem stackSlot_zero_toNat {s : State} (h : s.sys.stackPage = 0x01) : (stackSlot s 0).toNat = 256 + s.sp.toNat := by
  rw [stackSlot_zero, h, stackAddr, wordOf_toNat, Nat.add_comm]
  rfl

/-- Settles O31: PHA is the push of A followed by the advance of PC by its one byte. -/
theorem phaResult : Obligations.PhaResult := by
  intro s
  refine ⟨⟨rfl, rfl, rfl, rfl⟩, fun h => ?_, stackSlot_zero_toNat⟩
  rw [exec_pha, execPha, push_ready h, andThen_next, afterWrite_setSp_advance_one]

end Sys2Proof.Machine
end

section
/-! The encoding (spec/30_encoding.md sections 1, 4 and 5): what the decoder accepts, the instruction each row of the opcode table spells,
and the two round trips. -/

namespace Sys2Proof

open Sys2Proof.Machine (unlistedOpcodes)

/-! ## The instruction a row spells with operand bytes -/

/-- The operand bytes with which a template makes an instruction (R71). -/
def Template.Spells (t : Template) (operand : List Byte) (i : Instr) : Prop :=
  match t with
  | .bare j => operand = [] ∧ i = j
  | .byte f => ∃ n, operand = [n] ∧ i = f n
  | .word f => ∃ nn, operand = wordBytes nn ∧ i = f nn

theorem Template.length_eq_of_spells {t : Template} {operand : List Byte} {i : Instr} (h : t.Spells operand i) :
    t.length = operand.length + 1 := by
  cases t with
  | bare j => obtain ⟨rfl, -⟩ := h; rfl
  | byte f => obtain ⟨n, rfl, -⟩ := h; rfl
  | word f => obtain ⟨nn, rfl, -⟩ := h; rfl

/-- As many bytes as a template asks for spell an instruction. -/
theorem Template.exists_spells (t : Template) {operand : List Byte} (h : operand.length = t.length - 1) :
    ∃ i, t.Spells operand i := by
  cases t with
  | bare j => exact ⟨j, List.length_eq_zero_iff.mp h, rfl⟩
  | byte f =>
    obtain ⟨n, rfl⟩ := List.length_eq_one_iff.mp h
    exact ⟨f n, n, rfl, rfl⟩
  | word f =>
    obtain ⟨low, high, rfl⟩ := List.length_eq_two.mp h
    refine ⟨f (wordOf low high), wordOf low high, ?_, rfl⟩
    rw [wordBytes, Machine.lowByte_wordOf, Machine.highByte_wordOf]

/-- The decoder accepts exactly the bytes that a row of its table spells an instruction with. -/
theorem decode_cons_eq_ok {hasRor : Bool} {op : Byte} {tail rest : List Byte} {i : Instr} :
    decode hasRor (op :: tail) = .ok (i, rest) ↔
      ∃ r operand, rowOf hasRor op = some r ∧ r.template.Spells operand i ∧ tail = operand ++ rest := by
  cases hrow : rowOf hasRor op with
  | none => simp [decode, hrow]
  | some r =>
    simp only [decode, hrow, Option.some.injEq, exists_eq_left', exists_and_left]
    cases htemplate : r.template with
    | bare j => simp [Template.Spells, and_assoc, eq_comm]
    | byte f =>
      cases tail with
      | nil => simp [Template.Spells]
      | cons n tail => simp [Template.Spells, eq_comm]
    | word f =>
      match tail with
      | [] => simp [Template.Spells, wordBytes]
      | [n] => simp [Template.Spells, wordBytes]
      | low :: high :: tail =>
        simp only [Template.Spells, wordBytes, Except.ok.injEq, Prod.mk.injEq]
        constructor
        · rintro ⟨rfl, rfl⟩
          exact ⟨_, ⟨wordOf low high, rfl, rfl⟩, by rw [Machine.lowByte_wordOf, Machine.highByte_wordOf]; rfl⟩
        · rintro ⟨_, ⟨nn, rfl, rfl⟩, hbytes⟩
          simp only [List.cons_append, List.nil_append, List.cons.injEq] at hbytes
          obtain ⟨rfl, rfl, rfl⟩ := hbytes
          exact ⟨by rw [Machine.wordOf_bytes], rfl⟩

/-! ## The table and the encoder -/

/-- The encoder writes the row's opcode before the operand bytes of the instruction that the row's template makes. -/
def Row.Encodes (r : Row) : Prop :=
  match r.template with
  | .bare i => encode i = [r.opcode]
  | .byte f => ∀ n, encode (f n) = [r.opcode, n]
  | .word f => ∀ nn, encode (f nn) = r.opcode :: wordBytes nn

theorem Row.encode_of_spells {r : Row} (hr : r.Encodes) {operand : List Byte} {i : Instr} (h : r.template.Spells operand i) :
    encode i = r.opcode :: operand := by
  unfold Row.Encodes at hr
  cases htemplate : r.template <;> rw [htemplate] at hr h
  case bare => obtain ⟨rfl, rfl⟩ := h; exact hr
  case byte => obtain ⟨n, rfl, rfl⟩ := h; exact hr n
  case word => obtain ⟨nn, rfl, rfl⟩ := h; exact hr nn

/-- The encoder was written from the same table (R90): row by row it agrees. -/
theorem opcodeTable_encodes : ∀ r ∈ opcodeTable, r.Encodes := by
  simp only [opcodeTable, arithmeticRows, logicRows, shiftRows, branchRows, systemRows, flagRows, incDecRows, loadStoreRows,
    stackTransferRows, List.cons_append, List.nil_append, List.forall_mem_cons]
  repeat' apply And.intro
  case right => exact fun r hr => absurd hr List.not_mem_nil
  all_goals simp [Row.Encodes, encode]

/-- Every instruction is spelled by the row of the first byte of its encoding, and that byte is one of R94 exactly when the instruction
is ROR. -/
theorem encode_spelled (i : Instr) :
    ∃ op operand r, encode i = op :: operand ∧ rowOf true op = some r ∧ r.template.Spells operand i ∧
      rorOpcodes.contains op = i.isRor := by
  cases i <;> exact ⟨_, _, _, rfl, rfl, by simp [Template.Spells, wordBytes], rfl⟩

/-- A chip without ROR has the rows of the whole table but for the five of R94. -/
theorem rowOf_eq_some {hasRor : Bool} {op : Byte} {r : Row} :
    rowOf hasRor op = some r ↔ (hasRor || !rorOpcodes.contains op) = true ∧ rowOf true op = some r := by
  cases hasRor <;> simp [rowOf]

/-- A chip with ROR has the row that the table lists for the opcode. -/
theorem rowOf_true (op : Byte) : rowOf true op = opcodeTable.find? fun r => r.opcode == op := rfl

/-- The bytes before the rest are the encoding (R90). -/
theorem encode_of_rowOf {hasRor : Bool} {op : Byte} {r : Row} {operand : List Byte} {i : Instr} (h : rowOf hasRor op = some r)
    (hspells : r.template.Spells operand i) : encode i = op :: operand := by
  obtain ⟨-, hfind⟩ := rowOf_eq_some.mp h
  rw [rowOf_true] at hfind
  have hmem : r ∈ opcodeTable := List.mem_of_find?_eq_some hfind
  have hop : r.opcode = op := by simpa using List.find?_some hfind
  rw [← hop]
  exact Row.encode_of_spells (opcodeTable_encodes r hmem) hspells

/-! ## Lengths and rejected opcodes -/

/-- A listed opcode with as many operand bytes as its length asks for decodes. -/
theorem exists_decode_of_rowOf {hasRor : Bool} {op : Byte} {r : Row} (h : rowOf hasRor op = some r) {operand : List Byte}
    (hlen : operand.length = r.template.length - 1) : ∃ i, decode hasRor (op :: operand) = .ok (i, []) := by
  obtain ⟨i, hi⟩ := r.template.exists_spells hlen
  exact ⟨i, decode_cons_eq_ok.mpr ⟨r, operand, h, hi, (List.append_nil operand).symm⟩⟩

/-- The decoder rejects as unlisted exactly an opcode without a row. -/
theorem decode_cons_eq_unlisted {hasRor : Bool} {op : Byte} {tail : List Byte} :
    decode hasRor (op :: tail) = .error (.unlistedOpcode op) ↔ rowOf hasRor op = none := by
  cases hrow : rowOf hasRor op with
  | none => simp [decode, hrow]
  | some r =>
    simp only [decode, hrow, reduceCtorEq, iff_false]
    split <;> simp

/-- The opcodes without a row are the 105 of R93: each of the 256 bytes is looked up. -/
theorem rowOf_true_eq_none {op : Byte} : rowOf true op = none ↔ op ∈ unlistedOpcodes := by
  revert op; decide +kernel

/-- Without ROR the five opcodes of R94 have no row either. -/
theorem rowOf_false_eq_none {op : Byte} :
    rowOf false op = none ↔ op ∈ unlistedOpcodes ++ [0x66, 0x6A, 0x6E, 0x76, 0x7E] := by
  have hsplit : rowOf false op = none ↔ rowOf true op = none ∨ op ∈ rorOpcodes := by
    simp [rowOf, or_comm, or_iff_not_imp_left]
  rw [hsplit, rowOf_true_eq_none, List.mem_append, rorOpcodes]

/-! ## The statements -/

/-- Settles O47: the encoding is its row's opcode and the operand bytes that spell the instruction, and a chip that has the instruction
has the row. -/
theorem decodeOfEncode : Obligations.DecodeOfEncode := by
  intro hasRor i rest hwf
  obtain ⟨op, operand, r, hencode, hrow, hspells, hror⟩ := encode_spelled i
  rw [hencode, List.cons_append, decode_cons_eq_ok]
  refine ⟨r, operand, rowOf_eq_some.mpr ⟨?_, hrow⟩, hspells, rfl⟩
  rw [hror]
  exact hwf

/-- Settles O48: decoded bytes are spelled by a row of the chip's table, whose opcode the encoder writes too. -/
theorem encodeOfDecode : Obligations.EncodeOfDecode := by
  intro hasRor bytes rest i hdecode
  cases bytes with
  | nil => cases hdecode
  | cons op tail =>
    obtain ⟨r, operand, hrow, hspells, rfl⟩ := decode_cons_eq_ok.mp hdecode
    have hencode : encode i = op :: operand := encode_of_rowOf hrow hspells
    obtain ⟨op', _, _, hencode', -, -, hror⟩ := encode_spelled i
    obtain rfl : op' = op := by rw [hencode] at hencode'; cases hencode'; rfl
    refine ⟨?_, by rw [hencode, List.cons_append]⟩
    rw [Instr.wellFormed, ← hror]
    exact (rowOf_eq_some.mp hrow).1

/-- Settles O50: each word is the encoding of its instruction, with the bytes after it. -/
theorem exampleWordsDecode : Obligations.ExampleWordsDecode :=
  have roundTrip (i : Instr) (rest : List Byte) : decode true (encode i ++ rest) = .ok (i, rest) := decodeOfEncode true i rest rfl
  ⟨roundTrip (.jmpAbs 0x1234) [], roundTrip (.ldaIndY 0x40) [], roundTrip (.ldaAbs 0x1234) [], roundTrip (.ldaZpX 0xF0) [0xEA],
    roundTrip (.ldaImm 0x80) [], roundTrip (.bne 0xFA) [], roundTrip .aslAcc [], roundTrip (.jmpInd 0x0300) []⟩

end Sys2Proof
end

section
/-! The 151 meanings by class: the three classes of R61 with the effect of the mnemonic, and the instructions without a class of their
own. For each class, when `exec` answers and with which state, in closed form. -/

namespace Sys2Proof.Machine

/-! ## The entry sequence and the push of P in slots of the stack -/

/-- The three bytes of an entry on the stack: the word, high byte first, then P (R230). -/
def State.pushedThree (s : State) (w : Addr) (status : Byte) : State :=
  ((s.afterWrite (stackSlot s 0) (highByte w)).afterWrite (stackSlot s 1) (lowByte w)).afterWrite (stackSlot s 2) status

/-- The state after an entry sequence (R230). -/
def State.afterEntry (s : State) (vec w : Addr) (who : Pusher) : State :=
  let pushed := s.pushedThree w (statusByte who s)
  { (pushed.afterRead vec).afterRead (vec + 1) with
    sp := s.sp - 3, p := { s.p with i := true }, draws := (afterStatusByte s).draws
    pc := wordOf (pushed.readValue vec) ((pushed.afterRead vec).readValue (vec + 1)) }

/-- What an entry needs of `MEM`: its three stack bytes can be written and its vector read. -/
def State.entryReady (s : State) (vec : Addr) : Prop :=
  (∀ k, k < 3 → s.writable (stackSlot s k) = true) ∧ s.readable vec = true ∧ s.readable (vec + 1) = true

@[simp] theorem pushedThree_sys (s : State) (w : Addr) (b : Byte) : (s.pushedThree w b).sys = s.sys := by
  simp [State.pushedThree]

/-- A push in terms of the slot S points to. -/
theorem push_eq_next_stackSlot {v : Byte} {s t : State} :
    push v s = .next t ↔ s.writable (stackSlot s 0) = true ∧ t = (s.afterWrite (stackSlot s 0) v).setSp (s.sp - 1) := by
  rw [push_eq_next, stackSlot_zero]

/-- A push of a word in terms of the two slots. -/
theorem pushWord_eq_next_stackSlot {w : Addr} {s t : State} :
    pushWord w s = .next t ↔ s.writable (stackSlot s 0) = true ∧ s.writable (stackSlot s 1) = true ∧
      t = ((s.afterWrite (stackSlot s 0) (highByte w)).afterWrite (stackSlot s 1) (lowByte w)).setSp (s.sp - 2) := by
  constructor
  · intro h
    obtain ⟨h0, h1, -⟩ := pushWord_eq_next.mp h
    rw [← stackSlot_zero] at h0
    have hready := h.symm.trans (pushWord_ready h0 h1 w)
    exact ⟨h0, h1, Host.Outcome.next.inj hready⟩
  · rintro ⟨h0, h1, rfl⟩
    exact pushWord_ready h0 h1 w

/-- The byte pushed from P depends on P, the parameters and the draws alone. -/
theorem statusByte_congr {s t : State} (hsys : t.sys = s.sys) (hp : t.p = s.p) (hdraws : t.draws = s.draws) (who : Pusher) :
    statusByte who t = statusByte who s := by
  simp only [statusByte, hsys, hp, hdraws]

theorem afterStatusByte_draws (s : State) :
    (afterStatusByte s).draws = s.draws + if s.sys.pushBits = .draw then 2 else 0 := by
  unfold afterStatusByte; cases h : s.sys.pushBits <;> simp

/-- A push of P in terms of the slot S points to: beside the push only the draws are counted. -/
theorem pushStatus_eq_next_stackSlot {who : Pusher} {s t : State} :
    pushStatus who s = .next t ↔ s.writable (stackSlot s 0) = true ∧
      t = ((s.afterWrite (stackSlot s 0) (statusByte who s)).setDraws (afterStatusByte s).draws).setSp (s.sp - 1) := by
  rw [pushStatus_eq_next, ← stackSlot_zero, ← afterWrite_setDraws, ← afterStatusByte_eq]

/-- With PC's word and then P on the stack, S is three less and the draws of the status byte are counted. -/
def State.afterPushes (s : State) (w : Addr) (who : Pusher) : State :=
  ((s.pushedThree w (statusByte who s)).setDraws (afterStatusByte s).draws).setSp (s.sp - 3)

@[simp] theorem afterPushes_sys (s : State) (w : Addr) (who : Pusher) : (s.afterPushes w who).sys = s.sys := by
  simp [State.afterPushes]

@[simp] theorem afterPushes_p (s : State) (w : Addr) (who : Pusher) : (s.afterPushes w who).p = s.p := by
  simp [State.afterPushes, State.pushedThree]

/-- The two pushes of an entry answer exactly when the three stack bytes can be written. -/
theorem pushes_eq_next {w : Addr} {who : Pusher} {s v : State} :
    (∃ u, pushWord w s = .next u ∧ pushStatus who u = .next v) ↔
      (∀ k, k < 3 → s.writable (stackSlot s k) = true) ∧ v = s.afterPushes w who := by
  let u : State := ((s.afterWrite (stackSlot s 0) (highByte w)).afterWrite (stackSlot s 1) (lowByte w)).setSp (s.sp - 2)
  have hsys : u.sys = s.sys := by simp [u]
  have hslot : stackSlot u 0 = stackSlot s 2 := by
    rw [stackSlot_zero, stackSlot_eq, hsys]; rfl
  have hstatus : statusByte who u = statusByte who s := statusByte_congr hsys (by simp [u]) (by simp [u]) who
  have hdraws : (afterStatusByte u).draws = (afterStatusByte s).draws := by
    rw [afterStatusByte_draws, afterStatusByte_draws, hsys]; simp [u]
  have hpushes : ((u.afterWrite (stackSlot u 0) (statusByte who u)).setDraws (afterStatusByte u).draws).setSp (u.sp - 1) =
      s.afterPushes w who := by
    have hsp : u.sp - 1 = s.sp - 3 := BitVec.sub_sub s.sp 2 1
    rw [hsp, hslot, hstatus, hdraws, afterWrite_setSp]
    rfl
  simp only [pushWord_eq_next_stackSlot, pushStatus_eq_next_stackSlot]
  have hwritable : (∀ k, k < 3 → s.writable (stackSlot s k) = true) ↔
      s.writable (stackSlot s 0) = true ∧ s.writable (stackSlot s 1) = true ∧ u.writable (stackSlot u 0) = true := by
    rw [hslot, State.writable_congr hsys]
    exact ⟨fun h => ⟨h 0 (by omega), h 1 (by omega), h 2 (by omega)⟩,
      fun ⟨h0, h1, h2⟩ k hk => by obtain rfl | rfl | rfl : k = 0 ∨ k = 1 ∨ k = 2 := by omega
                                  all_goals assumption⟩
  rw [hwritable, ← hpushes]
  constructor
  · rintro ⟨_, ⟨h0, h1, rfl⟩, h2, rfl⟩
    exact ⟨⟨h0, h1, h2⟩, rfl⟩
  · rintro ⟨⟨h0, h1, h2⟩, rfl⟩
    exact ⟨u, ⟨h0, h1, rfl⟩, h2, rfl⟩

/-- A read sees neither S, P nor the draws, so a vector is read after they are set as before. -/
theorem vectorRead_after_updates (m : State) (vec : Addr) (n : Nat) (sp : Byte) (f : Flags) :
    let u := ((m.setDraws n).setSp sp).setP f
    ((u.afterRead vec).afterRead (vec + 1)).setPc (wordOf (u.readValue vec) ((u.afterRead vec).readValue (vec + 1))) =
      { (m.afterRead vec).afterRead (vec + 1) with
        sp := sp, p := f, draws := n
        pc := wordOf (m.readValue vec) ((m.afterRead vec).readValue (vec + 1)) } := rfl

/-- The entry sequence answers exactly when its three stack bytes can be written and its vector read. -/
theorem enterInterrupt_eq_next_afterEntry {vec w : Addr} {who : Pusher} {s t : State} :
    enterInterrupt vec w who s = .next t ↔ s.entryReady vec ∧ t = s.afterEntry vec w who := by
  let u : State := (s.afterPushes w who).setP { s.p with i := true }
  have hreadable (a : Addr) : u.readable a = s.readable a := State.readable_congr (by simp [u]) a
  have hjump : jumpVia vec u = .next t ↔ s.readable vec = true ∧ s.readable (vec + 1) = true ∧ t = s.afterEntry vec w who := by
    rw [jumpVia_eq_next, hreadable, hreadable]
    unfold u State.afterPushes
    rw [vectorRead_after_updates]
    rfl
  rw [State.entryReady, and_assoc, and_assoc, ← hjump, enterInterrupt_eq_next]
  constructor
  · rintro ⟨x, v, hx, hv, ht⟩
    obtain ⟨hwritable, rfl⟩ := pushes_eq_next.mp ⟨x, hx, hv⟩
    rw [afterPushes_p] at ht
    exact ⟨hwritable, ht⟩
  · rintro ⟨hwritable, ht⟩
    obtain ⟨x, hx, hv⟩ := pushes_eq_next.mpr ⟨hwritable, rfl⟩
    exact ⟨x, _, hx, hv, by rw [afterPushes_p]; exact ht⟩

/-! ## The classes -/

/-- What an instruction of the reading class does with `DATA`. -/
inductive ReadOp where
  | adc | sbc | cmp | cpx | cpy | and | eor | ora | bit | lda | ldx | ldy

def ReadOp.run : ReadOp → Byte → State → State
  | .adc => Machine.adc
  | .sbc => Machine.sbc
  | .cmp => compareA
  | .cpx => compareX
  | .cpy => compareY
  | .and => andA
  | .eor => eorA
  | .ora => oraA
  | .bit => bitTest
  | .lda => Machine.lda
  | .ldx => Machine.ldx
  | .ldy => Machine.ldy

/-- The register an instruction of the storing class stores. -/
inductive StoreReg where
  | a | x | y

def StoreReg.value : StoreReg → State → Byte
  | .a, s => s.a
  | .x, s => s.x
  | .y, s => s.y

/-- What an instruction of the modifying class does with its byte. -/
inductive ModifyOp where
  | asl | lsr | rol | ror | inc | dec

def ModifyOp.run : ModifyOp → Byte → Flags → Byte × Flags
  | .asl => Machine.asl
  | .lsr => Machine.lsr
  | .rol => Machine.rol
  | .ror => Machine.ror
  | .inc => increment
  | .dec => decrement

/-- The flag a branch tests. -/
inductive TestedFlag where
  | c | z | n | v

def TestedFlag.value : TestedFlag → Flags → Bool
  | .c, f => f.c
  | .z, f => f.z
  | .n, f => f.n
  | .v, f => f.v

/-- The test of a branch: the flag has the wanted value. -/
def TestedFlag.taken (flag : TestedFlag) : Bool → Flags → Bool
  | true, f => flag.value f
  | false, f => !flag.value f

/-- The instructions that write one flag other than I. -/
inductive FlagOp where
  | clc | cld | clv | sec | sed

def FlagOp.run : FlagOp → Flags → Flags
  | .clc, f => { f with c := false }
  | .cld, f => { f with d := false }
  | .clv, f => { f with v := false }
  | .sec, f => { f with c := true }
  | .sed, f => { f with d := true }

/-- The instructions without operand that load A, X or Y. -/
inductive LoadOp where
  | dex | dey | inx | iny | tax | tay | tsx | txa | tya

def LoadOp.run : LoadOp → State → State
  | .dex, s => s.loadX (s.x - 1)
  | .dey, s => s.loadY (s.y - 1)
  | .inx, s => s.loadX (s.x + 1)
  | .iny, s => s.loadY (s.y + 1)
  | .tax, s => s.loadX s.a
  | .tay, s => s.loadY s.a
  | .tsx, s => s.loadX s.sp
  | .txa, s => s.loadA s.x
  | .tya, s => s.loadA s.y

/-- The meanings: the classes of R61 with their operand form, the families that differ in one parameter, and the rest one by one. -/
inductive Meaning where
  | reading (e : ReadOp) (o : Operand)
  | storing (r : StoreReg) (p : Place)
  | modifying (m : ModifyOp) (p : Place)
  | modifyingA (m : ModifyOp)
  | branching (flag : TestedFlag) (wanted : Bool) (n : Byte)
  | flagging (f : FlagOp)
  | masking (i : Bool)
  | loading (l : LoadOp)
  | txs
  | nop
  | jmp (nn : Addr)
  | jmpIndirect (nn : Addr)
  | jsr (nn : Addr)
  | rts
  | brk
  | rti
  | pha
  | php
  | pla
  | plp

/-- The operation of a meaning. -/
def Meaning.run : Meaning → State → Exec
  | .reading e o, s => readClass o e.run s
  | .storing r p, s => storeClass p (r.value s) s
  | .modifying m p, s => modifyClass p m.run s
  | .modifyingA m, s => modifyA m.run s
  | .branching flag wanted n, s => branchIf (flag.taken wanted s.p) n s
  | .flagging f, s => .next ((s.setP (f.run s.p)).advance 1)
  | .masking i, s => .next (((s.setP { s.p with i := i }).holdMask s.p.i).advance 1)
  | .loading l, s => .next ((l.run s).advance 1)
  | .txs, s => execTxs s
  | .nop, s => execNop s
  | .jmp nn, s => execJmpAbs nn s
  | .jmpIndirect nn, s => execJmpInd nn s
  | .jsr nn, s => execJsrAbs nn s
  | .rts, s => execRts s
  | .brk, s => execBrk s
  | .rti, s => execRti s
  | .pha, s => execPha s
  | .php, s => execPhp s
  | .pla, s => execPla s
  | .plp, s => execPlp s

/-- The meaning of each instruction, one line for each of the 151. -/
def meaningOf : Instr → Meaning
  | .adcImm n => .reading .adc (.immediate n)
  | .adcAbs nn => .reading .adc (.memory (.absolute nn))
  | .adcZp n => .reading .adc (.memory (.zeroPage n))
  | .adcIndX n => .reading .adc (.memory (.indX n))
  | .adcIndY n => .reading .adc (.memory (.indY n))
  | .adcZpX n => .reading .adc (.memory (.zeroPageX n))
  | .adcAbsX nn => .reading .adc (.memory (.absoluteX nn))
  | .adcAbsY nn => .reading .adc (.memory (.absoluteY nn))
  | .andImm n => .reading .and (.immediate n)
  | .andAbs nn => .reading .and (.memory (.absolute nn))
  | .andZp n => .reading .and (.memory (.zeroPage n))
  | .andIndX n => .reading .and (.memory (.indX n))
  | .andIndY n => .reading .and (.memory (.indY n))
  | .andZpX n => .reading .and (.memory (.zeroPageX n))
  | .andAbsX nn => .reading .and (.memory (.absoluteX nn))
  | .andAbsY nn => .reading .and (.memory (.absoluteY nn))
  | .aslAbs nn => .modifying .asl (.absolute nn)
  | .aslZp n => .modifying .asl (.zeroPage n)
  | .aslAcc => .modifyingA .asl
  | .aslZpX n => .modifying .asl (.zeroPageX n)
  | .aslAbsX nn => .modifying .asl (.absoluteX nn)
  | .bcc n => .branching .c false n
  | .bcs n => .branching .c true n
  | .beq n => .branching .z true n
  | .bne n => .branching .z false n
  | .bmi n => .branching .n true n
  | .bpl n => .branching .n false n
  | .bvc n => .branching .v false n
  | .bvs n => .branching .v true n
  | .bitAbs nn => .reading .bit (.memory (.absolute nn))
  | .bitZp n => .reading .bit (.memory (.zeroPage n))
  | .brk => .brk
  | .clc => .flagging .clc
  | .cld => .flagging .cld
  | .cli => .masking false
  | .clv => .flagging .clv
  | .cmpImm n => .reading .cmp (.immediate n)
  | .cmpAbs nn => .reading .cmp (.memory (.absolute nn))
  | .cmpZp n => .reading .cmp (.memory (.zeroPage n))
  | .cmpIndX n => .reading .cmp (.memory (.indX n))
  | .cmpIndY n => .reading .cmp (.memory (.indY n))
  | .cmpZpX n => .reading .cmp (.memory (.zeroPageX n))
  | .cmpAbsX nn => .reading .cmp (.memory (.absoluteX nn))
  | .cmpAbsY nn => .reading .cmp (.memory (.absoluteY nn))
  | .cpxImm n => .reading .cpx (.immediate n)
  | .cpxAbs nn => .reading .cpx (.memory (.absolute nn))
  | .cpxZp n => .reading .cpx (.memory (.zeroPage n))
  | .cpyImm n => .reading .cpy (.immediate n)
  | .cpyAbs nn => .reading .cpy (.memory (.absolute nn))
  | .cpyZp n => .reading .cpy (.memory (.zeroPage n))
  | .decAbs nn => .modifying .dec (.absolute nn)
  | .decZp n => .modifying .dec (.zeroPage n)
  | .decZpX n => .modifying .dec (.zeroPageX n)
  | .decAbsX nn => .modifying .dec (.absoluteX nn)
  | .dex => .loading .dex
  | .dey => .loading .dey
  | .eorImm n => .reading .eor (.immediate n)
  | .eorAbs nn => .reading .eor (.memory (.absolute nn))
  | .eorZp n => .reading .eor (.memory (.zeroPage n))
  | .eorIndX n => .reading .eor (.memory (.indX n))
  | .eorIndY n => .reading .eor (.memory (.indY n))
  | .eorZpX n => .reading .eor (.memory (.zeroPageX n))
  | .eorAbsX nn => .reading .eor (.memory (.absoluteX nn))
  | .eorAbsY nn => .reading .eor (.memory (.absoluteY nn))
  | .incAbs nn => .modifying .inc (.absolute nn)
  | .incZp n => .modifying .inc (.zeroPage n)
  | .incZpX n => .modifying .inc (.zeroPageX n)
  | .incAbsX nn => .modifying .inc (.absoluteX nn)
  | .inx => .loading .inx
  | .iny => .loading .iny
  | .jmpAbs nn => .jmp nn
  | .jmpInd nn => .jmpIndirect nn
  | .jsrAbs nn => .jsr nn
  | .ldaImm n => .reading .lda (.immediate n)
  | .ldaAbs nn => .reading .lda (.memory (.absolute nn))
  | .ldaZp n => .reading .lda (.memory (.zeroPage n))
  | .ldaIndX n => .reading .lda (.memory (.indX n))
  | .ldaIndY n => .reading .lda (.memory (.indY n))
  | .ldaZpX n => .reading .lda (.memory (.zeroPageX n))
  | .ldaAbsX nn => .reading .lda (.memory (.absoluteX nn))
  | .ldaAbsY nn => .reading .lda (.memory (.absoluteY nn))
  | .ldxImm n => .reading .ldx (.immediate n)
  | .ldxAbs nn => .reading .ldx (.memory (.absolute nn))
  | .ldxZp n => .reading .ldx (.memory (.zeroPage n))
  | .ldxAbsY nn => .reading .ldx (.memory (.absoluteY nn))
  | .ldxZpY n => .reading .ldx (.memory (.zeroPageY n))
  | .ldyImm n => .reading .ldy (.immediate n)
  | .ldyAbs nn => .reading .ldy (.memory (.absolute nn))
  | .ldyZp n => .reading .ldy (.memory (.zeroPage n))
  | .ldyZpX n => .reading .ldy (.memory (.zeroPageX n))
  | .ldyAbsX nn => .reading .ldy (.memory (.absoluteX nn))
  | .lsrAbs nn => .modifying .lsr (.absolute nn)
  | .lsrZp n => .modifying .lsr (.zeroPage n)
  | .lsrAcc => .modifyingA .lsr
  | .lsrZpX n => .modifying .lsr (.zeroPageX n)
  | .lsrAbsX nn => .modifying .lsr (.absoluteX nn)
  | .nop => .nop
  | .oraImm n => .reading .ora (.immediate n)
  | .oraAbs nn => .reading .ora (.memory (.absolute nn))
  | .oraZp n => .reading .ora (.memory (.zeroPage n))
  | .oraIndX n => .reading .ora (.memory (.indX n))
  | .oraIndY n => .reading .ora (.memory (.indY n))
  | .oraZpX n => .reading .ora (.memory (.zeroPageX n))
  | .oraAbsX nn => .reading .ora (.memory (.absoluteX nn))
  | .oraAbsY nn => .reading .ora (.memory (.absoluteY nn))
  | .pha => .pha
  | .php => .php
  | .pla => .pla
  | .plp => .plp
  | .rolAbs nn => .modifying .rol (.absolute nn)
  | .rolZp n => .modifying .rol (.zeroPage n)
  | .rolAcc => .modifyingA .rol
  | .rolZpX n => .modifying .rol (.zeroPageX n)
  | .rolAbsX nn => .modifying .rol (.absoluteX nn)
  | .rorAbs nn => .modifying .ror (.absolute nn)
  | .rorZp n => .modifying .ror (.zeroPage n)
  | .rorAcc => .modifyingA .ror
  | .rorZpX n => .modifying .ror (.zeroPageX n)
  | .rorAbsX nn => .modifying .ror (.absoluteX nn)
  | .rti => .rti
  | .rts => .rts
  | .sbcImm n => .reading .sbc (.immediate n)
  | .sbcAbs nn => .reading .sbc (.memory (.absolute nn))
  | .sbcZp n => .reading .sbc (.memory (.zeroPage n))
  | .sbcIndX n => .reading .sbc (.memory (.indX n))
  | .sbcIndY n => .reading .sbc (.memory (.indY n))
  | .sbcZpX n => .reading .sbc (.memory (.zeroPageX n))
  | .sbcAbsX nn => .reading .sbc (.memory (.absoluteX nn))
  | .sbcAbsY nn => .reading .sbc (.memory (.absoluteY nn))
  | .sec => .flagging .sec
  | .sed => .flagging .sed
  | .sei => .masking true
  | .staAbs nn => .storing .a (.absolute nn)
  | .staZp n => .storing .a (.zeroPage n)
  | .staIndX n => .storing .a (.indX n)
  | .staIndY n => .storing .a (.indY n)
  | .staZpX n => .storing .a (.zeroPageX n)
  | .staAbsX nn => .storing .a (.absoluteX nn)
  | .staAbsY nn => .storing .a (.absoluteY nn)
  | .stxAbs nn => .storing .x (.absolute nn)
  | .stxZp n => .storing .x (.zeroPage n)
  | .stxZpY n => .storing .x (.zeroPageY n)
  | .styAbs nn => .storing .y (.absolute nn)
  | .styZp n => .storing .y (.zeroPage n)
  | .styZpX n => .storing .y (.zeroPageX n)
  | .tax => .loading .tax
  | .tay => .loading .tay
  | .tsx => .loading .tsx
  | .txa => .loading .txa
  | .txs => .txs
  | .tya => .loading .tya

/-- The table of meanings is the dispatch. -/
theorem exec_eq_run (i : Instr) (s : State) : exec i s = (meaningOf i).run s := by
  cases i <;> rfl

/-! ## When a meaning answers, and with what -/

/-- What a meaning needs of the state to answer a next state. -/
def Meaning.Ready : Meaning → State → Prop
  | .reading _ o, s => o.ready s = true
  | .storing _ p, s => p.reachable s = true ∧ s.writable (p.address s) = true
  | .modifying _ p, s => p.reachable s = true ∧ s.readable (p.address s) = true ∧ s.writable (p.address s) = true
  | .jmpIndirect nn, s => s.pointerReadable nn = true
  | .jsr _, s => s.writable (stackSlot s 0) = true ∧ s.writable (stackSlot s 1) = true
  | .rts, s => s.readable (stackAbove s 1) = true ∧ s.readable (stackAbove s 2) = true
  | .brk, s => s.entryReady irqVector
  | .rti, s => s.readable (stackAbove s 1) = true ∧ s.readable (stackAbove s 2) = true ∧ s.readable (stackAbove s 3) = true
  | .pha, s | .php, s => s.writable (stackSlot s 0) = true
  | .pla, s | .plp, s => s.readable (stackAbove s 1) = true
  | _, _ => True

/-- The next state of a meaning. -/
def Meaning.after : Meaning → State → State
  | .reading e o, s => (e.run (o.data s) (o.fetched s)).advance o.length
  | .storing r p, s => ((p.settled s).afterWrite (p.address s) (r.value s)).advance p.length
  | .modifying m p, s =>
    let result := m.run ((p.settled s).readValue (p.address s)) s.p
    ((((p.settled s).afterRead (p.address s)).afterWrite (p.address s) result.1).setP result.2).advance p.length
  | .modifyingA m, s => ((s.setA (m.run s.a s.p).1).setP (m.run s.a s.p).2).advance 1
  | .branching flag wanted n, s => s.setPc (if flag.taken wanted s.p then branchTarget s.pc n else s.pc + 2)
  | .flagging f, s => (s.setP (f.run s.p)).advance 1
  | .masking i, s => ((s.setP { s.p with i := i }).holdMask s.p.i).advance 1
  | .loading l, s => (l.run s).advance 1
  | .txs, s => (s.setSp s.x).advance 1
  | .nop, s => s.advance 1
  | .jmp nn, s => s.setPc nn
  | .jmpIndirect nn, s => (s.afterPointer nn).setPc (s.pointerValue nn)
  | .jsr nn, s =>
    (((s.afterWrite (stackSlot s 0) (highByte (s.pc + 2))).afterWrite (stackSlot s 1) (lowByte (s.pc + 2))).setSp (s.sp - 2)).setPc nn
  | .rts, s =>
    (((s.afterRead (stackAbove s 1)).afterRead (stackAbove s 2)).setSp (s.sp + 2)).setPc
      (wordOf (s.readValue (stackAbove s 1)) ((s.afterRead (stackAbove s 1)).readValue (stackAbove s 2)) + 1)
  | .brk, s => s.afterEntry irqVector (s.pc + 2) .brk
  | .rti, s => s.afterRti
  | .pha, s => ((s.afterWrite (stackSlot s 0) s.a).setSp (s.sp - 1)).advance 1
  | .php, s =>
    (((s.afterWrite (stackSlot s 0) (statusByte .php s)).setDraws (afterStatusByte s).draws).setSp (s.sp - 1)).advance 1
  | .pla, s =>
    (((s.afterRead (stackAbove s 1)).setSp (s.sp + 1)).loadA (s.readValue (stackAbove s 1))).advance 1
  | .plp, s =>
    ((((s.afterRead (stackAbove s 1)).setSp (s.sp + 1)).setP (flagsOf (s.readValue (stackAbove s 1)))).holdMask s.p.i).advance 1

/-- An operation that answers under one condition with one value, then an update: the condition is kept and the value updated. -/
theorem andThen_update_eq_next {α : Type} {o : Host.Outcome α Fault Refusal} {x : α} {ready : Prop}
    (h : ∀ y, o = .next y ↔ ready ∧ y = x) (update : α → State) {t : State} :
    (andThen o fun r => .next (update r)) = .next t ↔ ready ∧ t = update x := by
  simp only [andThen_eq_next, h, Host.Outcome.next.injEq]
  constructor
  · rintro ⟨_, ⟨hready, rfl⟩, rfl⟩; exact ⟨hready, rfl⟩
  · rintro ⟨hready, rfl⟩; exact ⟨x, ⟨hready, rfl⟩, rfl⟩

theorem readPointer_eq_next_pair {p : Addr} {s : State} {r : Addr × State} :
    readPointer p s = .next r ↔ s.pointerReadable p = true ∧ r = (s.pointerValue p, s.afterPointer p) := by
  rw [Prod.ext_iff]; exact readPointer_eq_next

theorem pull_eq_next_pair {s : State} {r : Byte × State} :
    pull s = .next r ↔ s.readable (stackAbove s 1) = true ∧
      r = (s.readValue (stackAbove s 1), (s.afterRead (stackAbove s 1)).setSp (s.sp + 1)) := by
  rw [Prod.ext_iff]; exact pull_eq_next_stackAbove

theorem pullWord_eq_next_pair {s : State} {r : Addr × State} :
    pullWord s = .next r ↔ (s.readable (stackAbove s 1) = true ∧ s.readable (stackAbove s 2) = true) ∧
      r = (wordOf (s.readValue (stackAbove s 1)) ((s.afterRead (stackAbove s 1)).readValue (stackAbove s 2)),
        ((s.afterRead (stackAbove s 1)).afterRead (stackAbove s 2)).setSp (s.sp + 2)) := by
  rw [Prod.ext_iff, and_assoc]; exact pullWord_eq_next_stackAbove

/-- A meaning answers exactly when it is ready, with the one next state of its class. -/
theorem Meaning.run_eq_next {m : Meaning} {s t : State} : m.run s = .next t ↔ m.Ready s ∧ t = m.after s := by
  cases m with
  | reading e o => exact readClass_eq_next
  | storing r p => rw [Ready, and_assoc]; exact storeClass_eq_next
  | modifying m p => rw [Ready, and_assoc, and_assoc]; exact modifyClass_eq_next
  | jmpIndirect nn => exact andThen_update_eq_next (fun _ => readPointer_eq_next_pair) fun r : Addr × State => r.2.setPc r.1
  | jsr nn =>
    exact andThen_update_eq_next (fun u => by rw [pushWord_eq_next_stackSlot, Ready, and_assoc]) fun u : State => u.setPc nn
  | rts =>
    exact andThen_update_eq_next (fun _ => pullWord_eq_next_pair) fun r : Addr × State => r.2.setPc (r.1 + 1)
  | brk => exact enterInterrupt_eq_next_afterEntry
  | rti => rw [Ready, and_assoc, and_assoc]; exact exec_rti_eq_next
  | pha => exact andThen_update_eq_next (fun _ => push_eq_next_stackSlot) fun u => u.advance 1
  | php => exact andThen_update_eq_next (fun _ => pushStatus_eq_next_stackSlot) fun u => u.advance 1
  | pla =>
    exact andThen_update_eq_next (fun _ => pull_eq_next_pair) fun r : Byte × State => (r.2.loadA r.1).advance 1
  | plp =>
    exact andThen_update_eq_next (fun _ => pull_eq_next_pair) fun r : Byte × State => ((r.2.setP (flagsOf r.1)).holdMask s.p.i).advance 1
  | modifyingA | branching | flagging | masking | loading | txs | nop | jmp =>
    exact ⟨fun h => ⟨trivial, (Host.Outcome.next.inj h).symm⟩, fun h => congrArg Host.Outcome.next h.2.symm⟩

/-- `exec` answers exactly when the meaning is ready, with the one next state of its class. -/
theorem exec_eq_next {i : Instr} {s t : State} :
    exec i s = .next t ↔ (meaningOf i).Ready s ∧ t = (meaningOf i).after s := by
  rw [exec_eq_run, Meaning.run_eq_next]

end Sys2Proof.Machine
end

section
/-! What each class leaves alone: one lemma per field that a part of a next state keeps. -/

namespace Sys2Proof.Machine

/-! ## What the reads leave alone -/

@[simp] theorem afterPointer_a (s : State) (p : Addr) : (s.afterPointer p).a = s.a := by rw [afterPointer_eq]
@[simp] theorem afterPointer_x (s : State) (p : Addr) : (s.afterPointer p).x = s.x := by rw [afterPointer_eq]
@[simp] theorem afterPointer_y (s : State) (p : Addr) : (s.afterPointer p).y = s.y := by rw [afterPointer_eq]
@[simp] theorem afterPointer_sp (s : State) (p : Addr) : (s.afterPointer p).sp = s.sp := by rw [afterPointer_eq]
@[simp] theorem afterPointer_pc (s : State) (p : Addr) : (s.afterPointer p).pc = s.pc := by rw [afterPointer_eq]
@[simp] theorem afterPointer_p (s : State) (p : Addr) : (s.afterPointer p).p = s.p := by rw [afterPointer_eq]
@[simp] theorem afterPointer_nmiPending (s : State) (p : Addr) : (s.afterPointer p).nmiPending = s.nmiPending := by rw [afterPointer_eq]
@[simp] theorem afterPointer_heldMask (s : State) (p : Addr) : (s.afterPointer p).heldMask = s.heldMask := by rw [afterPointer_eq]
@[simp] theorem afterPointer_inputs (s : State) (p : Addr) : (s.afterPointer p).inputs = s.inputs := by rw [afterPointer_eq]
@[simp] theorem afterPointer_draws (s : State) (p : Addr) : (s.afterPointer p).draws = s.draws := by rw [afterPointer_eq]

@[simp] theorem settled_a (p : Place) (s : State) : (p.settled s).a = s.a := by rw [settled_eq]
@[simp] theorem settled_x (p : Place) (s : State) : (p.settled s).x = s.x := by rw [settled_eq]
@[simp] theorem settled_y (p : Place) (s : State) : (p.settled s).y = s.y := by rw [settled_eq]
@[simp] theorem settled_sp (p : Place) (s : State) : (p.settled s).sp = s.sp := by rw [settled_eq]
@[simp] theorem settled_nmiPending (p : Place) (s : State) : (p.settled s).nmiPending = s.nmiPending := by rw [settled_eq]
@[simp] theorem settled_heldMask (p : Place) (s : State) : (p.settled s).heldMask = s.heldMask := by rw [settled_eq]
@[simp] theorem settled_inputs (p : Place) (s : State) : (p.settled s).inputs = s.inputs := by rw [settled_eq]
@[simp] theorem settled_draws (p : Place) (s : State) : (p.settled s).draws = s.draws := by rw [settled_eq]

@[simp] theorem fetched_a (o : Operand) (s : State) : (o.fetched s).a = s.a := by rw [fetched_eq]
@[simp] theorem fetched_x (o : Operand) (s : State) : (o.fetched s).x = s.x := by rw [fetched_eq]
@[simp] theorem fetched_y (o : Operand) (s : State) : (o.fetched s).y = s.y := by rw [fetched_eq]
@[simp] theorem fetched_sp (o : Operand) (s : State) : (o.fetched s).sp = s.sp := by rw [fetched_eq]
@[simp] theorem fetched_pc (o : Operand) (s : State) : (o.fetched s).pc = s.pc := by rw [fetched_eq]
@[simp] theorem fetched_p (o : Operand) (s : State) : (o.fetched s).p = s.p := by rw [fetched_eq]
@[simp] theorem fetched_nmiPending (o : Operand) (s : State) : (o.fetched s).nmiPending = s.nmiPending := by rw [fetched_eq]
@[simp] theorem fetched_heldMask (o : Operand) (s : State) : (o.fetched s).heldMask = s.heldMask := by rw [fetched_eq]
@[simp] theorem fetched_mem (o : Operand) (s : State) : (o.fetched s).mem = s.mem := by rw [fetched_eq]
@[simp] theorem fetched_sys (o : Operand) (s : State) : (o.fetched s).sys = s.sys := by rw [fetched_eq]
@[simp] theorem fetched_inputs (o : Operand) (s : State) : (o.fetched s).inputs = s.inputs := by rw [fetched_eq]
@[simp] theorem fetched_draws (o : Operand) (s : State) : (o.fetched s).draws = s.draws := by rw [fetched_eq]

/-! ## What the entry sequence and RTI leave alone -/

@[simp] theorem pushedThree_a (s : State) (w : Addr) (b : Byte) : (s.pushedThree w b).a = s.a := by simp [State.pushedThree]
@[simp] theorem pushedThree_x (s : State) (w : Addr) (b : Byte) : (s.pushedThree w b).x = s.x := by simp [State.pushedThree]
@[simp] theorem pushedThree_y (s : State) (w : Addr) (b : Byte) : (s.pushedThree w b).y = s.y := by simp [State.pushedThree]
@[simp] theorem pushedThree_sp (s : State) (w : Addr) (b : Byte) : (s.pushedThree w b).sp = s.sp := by simp [State.pushedThree]
@[simp] theorem pushedThree_pc (s : State) (w : Addr) (b : Byte) : (s.pushedThree w b).pc = s.pc := by simp [State.pushedThree]
@[simp] theorem pushedThree_p (s : State) (w : Addr) (b : Byte) : (s.pushedThree w b).p = s.p := by simp [State.pushedThree]
@[simp] theorem pushedThree_nmiPending (s : State) (w : Addr) (b : Byte) : (s.pushedThree w b).nmiPending = s.nmiPending := by simp [State.pushedThree]
@[simp] theorem pushedThree_heldMask (s : State) (w : Addr) (b : Byte) : (s.pushedThree w b).heldMask = s.heldMask := by simp [State.pushedThree]
@[simp] theorem pushedThree_inputs (s : State) (w : Addr) (b : Byte) : (s.pushedThree w b).inputs = s.inputs := by simp [State.pushedThree]
@[simp] theorem pushedThree_draws (s : State) (w : Addr) (b : Byte) : (s.pushedThree w b).draws = s.draws := by simp [State.pushedThree]

@[simp] theorem afterEntry_a (s : State) (vec w : Addr) (who : Pusher) : (s.afterEntry vec w who).a = s.a := by simp [State.afterEntry]
@[simp] theorem afterEntry_x (s : State) (vec w : Addr) (who : Pusher) : (s.afterEntry vec w who).x = s.x := by simp [State.afterEntry]
@[simp] theorem afterEntry_y (s : State) (vec w : Addr) (who : Pusher) : (s.afterEntry vec w who).y = s.y := by simp [State.afterEntry]
@[simp] theorem afterEntry_nmiPending (s : State) (vec w : Addr) (who : Pusher) : (s.afterEntry vec w who).nmiPending = s.nmiPending := by simp [State.afterEntry]
@[simp] theorem afterEntry_heldMask (s : State) (vec w : Addr) (who : Pusher) : (s.afterEntry vec w who).heldMask = s.heldMask := by simp [State.afterEntry]
@[simp] theorem afterEntry_sys (s : State) (vec w : Addr) (who : Pusher) : (s.afterEntry vec w who).sys = s.sys := by simp [State.afterEntry]
@[simp] theorem afterEntry_inputs (s : State) (vec w : Addr) (who : Pusher) : (s.afterEntry vec w who).inputs = s.inputs := by simp [State.afterEntry]

@[simp] theorem afterRti_a (s : State) : (s.afterRti).a = s.a := rfl
@[simp] theorem afterRti_x (s : State) : (s.afterRti).x = s.x := rfl
@[simp] theorem afterRti_y (s : State) : (s.afterRti).y = s.y := rfl
@[simp] theorem afterRti_nmiPending (s : State) : (s.afterRti).nmiPending = s.nmiPending := rfl
@[simp] theorem afterRti_heldMask (s : State) : (s.afterRti).heldMask = s.heldMask := rfl
@[simp] theorem afterRti_mem (s : State) : (s.afterRti).mem = s.mem := rfl
@[simp] theorem afterRti_sys (s : State) : (s.afterRti).sys = s.sys := rfl
@[simp] theorem afterRti_inputs (s : State) : (s.afterRti).inputs = s.inputs := rfl
@[simp] theorem afterRti_draws (s : State) : (s.afterRti).draws = s.draws := rfl

/-! ## What the effects leave alone -/

theorem adc_binary {s : State} (h : s.p.d = false) (m : Byte) : adc m s = binaryResult (adcBinary s.a m s.p.c) s := by
  rw [adc, h]; rfl

theorem adc_decimal {s : State} (h : s.p.d = true) (m : Byte) :
    adc m s = decimalResult (validBcd s.a && validBcd m) (adcDecimal s.a m s.p.c) s := by
  rw [adc, h]; rfl

theorem sbc_binary {s : State} (h : s.p.d = false) (m : Byte) : sbc m s = binaryResult (sbcBinary s.a m s.p.c) s := by
  rw [sbc, h]; rfl

theorem sbc_decimal {s : State} (h : s.p.d = true) (m : Byte) :
    sbc m s = decimalResult (validBcd s.a && validBcd m) (sbcDecimal s.a m s.p.c) s := by
  rw [sbc, h]; rfl

/-- A decimal sum or difference sets A, N, V, Z, C and the draws, and nothing else (R112). -/
theorem decimalResult_eq (valid : Bool) (r : Byte × Bool) (s : State) : ∃ (a : Byte) (n v z c : Bool) (k : Nat),
    s.draws ≤ k ∧ decimalResult valid r s = { s with a := a, p := { s.p with n := n, v := v, z := z, c := c }, draws := k } := by
  unfold decimalResult
  split
  · exact ⟨_, _, _, _, _, _, Nat.le_add_right _ _, rfl⟩
  · exact ⟨_, _, _, _, _, _, Nat.le_add_right _ _, rfl⟩

/-- ADC and SBC set A, N, V, Z and C, and in decimal mode the draws, and nothing else. -/
theorem adc_sbc_eq (e : ReadOp) (m : Byte) (s : State) (h : e = .adc ∨ e = .sbc) : ∃ (a : Byte) (n v z c : Bool) (k : Nat),
    s.draws ≤ k ∧ (s.p.d = false → k = s.draws) ∧
      e.run m s = { s with a := a, p := { s.p with n := n, v := v, z := z, c := c }, draws := k } := by
  cases hd : s.p.d with
  | false =>
    obtain rfl | rfl := h
    · exact ⟨_, _, _, _, _, s.draws, le_refl _, fun _ => rfl, adc_binary hd m⟩
    · exact ⟨_, _, _, _, _, s.draws, le_refl _, fun _ => rfl, sbc_binary hd m⟩
  | true =>
    obtain ⟨valid, r, hrun⟩ : ∃ valid r, e.run m s = decimalResult valid r s := by
      obtain rfl | rfl := h
      · exact ⟨_, _, adc_decimal hd m⟩
      · exact ⟨_, _, sbc_decimal hd m⟩
    obtain ⟨a, n, v, z, c, k, hk, hresult⟩ := decimalResult_eq valid r s
    exact ⟨a, n, v, z, c, k, hk, fun h => absurd h (by simp), hrun.trans hresult⟩

/-- An effect of the reading class sets A, X, Y, P and the draws, and nothing else. -/
theorem ReadOp.run_eq (e : ReadOp) (m : Byte) (s : State) :
    e.run m s = { s with a := (e.run m s).a, x := (e.run m s).x, y := (e.run m s).y, p := (e.run m s).p, draws := (e.run m s).draws } := by
  have hsum := adc_sbc_eq e m s
  cases e with
  | adc | sbc => obtain ⟨a, n, v, z, c, k, -, -, hrun⟩ := hsum (by simp); rw [hrun]
  | cmp | cpx | cpy | and | eor | ora | bit | lda | ldx | ldy => rfl

@[simp] theorem ReadOp.run_sp (e : ReadOp) (v : Byte) (s : State) : (e.run v s).sp = s.sp := by rw [run_eq]
@[simp] theorem ReadOp.run_pc (e : ReadOp) (v : Byte) (s : State) : (e.run v s).pc = s.pc := by rw [run_eq]
@[simp] theorem ReadOp.run_nmiPending (e : ReadOp) (v : Byte) (s : State) : (e.run v s).nmiPending = s.nmiPending := by rw [run_eq]
@[simp] theorem ReadOp.run_heldMask (e : ReadOp) (v : Byte) (s : State) : (e.run v s).heldMask = s.heldMask := by rw [run_eq]
@[simp] theorem ReadOp.run_mem (e : ReadOp) (v : Byte) (s : State) : (e.run v s).mem = s.mem := by rw [run_eq]
@[simp] theorem ReadOp.run_sys (e : ReadOp) (v : Byte) (s : State) : (e.run v s).sys = s.sys := by rw [run_eq]
@[simp] theorem ReadOp.run_inputs (e : ReadOp) (v : Byte) (s : State) : (e.run v s).inputs = s.inputs := by rw [run_eq]
@[simp] theorem ReadOp.run_bus (e : ReadOp) (v : Byte) (s : State) : (e.run v s).bus = s.bus := by rw [run_eq]

/-- A load without operand sets A, X, Y and P, and nothing else. -/
theorem LoadOp.run_eq (l : LoadOp) (s : State) :
    l.run s = { s with a := (l.run s).a, x := (l.run s).x, y := (l.run s).y, p := (l.run s).p } := by
  cases l <;> rfl

@[simp] theorem LoadOp.run_sp (l : LoadOp) (s : State) : (l.run s).sp = s.sp := by rw [run_eq]
@[simp] theorem LoadOp.run_pc (l : LoadOp) (s : State) : (l.run s).pc = s.pc := by rw [run_eq]
@[simp] theorem LoadOp.run_nmiPending (l : LoadOp) (s : State) : (l.run s).nmiPending = s.nmiPending := by rw [run_eq]
@[simp] theorem LoadOp.run_heldMask (l : LoadOp) (s : State) : (l.run s).heldMask = s.heldMask := by rw [run_eq]
@[simp] theorem LoadOp.run_mem (l : LoadOp) (s : State) : (l.run s).mem = s.mem := by rw [run_eq]
@[simp] theorem LoadOp.run_sys (l : LoadOp) (s : State) : (l.run s).sys = s.sys := by rw [run_eq]
@[simp] theorem LoadOp.run_inputs (l : LoadOp) (s : State) : (l.run s).inputs = s.inputs := by rw [run_eq]
@[simp] theorem LoadOp.run_draws (l : LoadOp) (s : State) : (l.run s).draws = s.draws := by rw [run_eq]
@[simp] theorem LoadOp.run_bus (l : LoadOp) (s : State) : (l.run s).bus = s.bus := by rw [run_eq]


/-! ## The spec's tables by class -/

/-- The effects that write A. -/
def ReadOp.writesA : ReadOp → Bool
  | .adc | .sbc | .and | .eor | .ora | .lda => true
  | .cmp | .cpx | .cpy | .bit | .ldx | .ldy => false

def Meaning.writesA : Meaning → Bool
  | .reading e _ => e.writesA
  | .modifyingA _ | .loading .txa | .loading .tya | .pla => true
  | _ => false

def Meaning.writesX : Meaning → Bool
  | .reading .ldx _ | .loading .dex | .loading .inx | .loading .tax | .loading .tsx => true
  | _ => false

def Meaning.writesY : Meaning → Bool
  | .reading .ldy _ | .loading .dey | .loading .iny | .loading .tay => true
  | _ => false

def Meaning.writesS : Meaning → Bool
  | .txs | .jsr _ | .rts | .brk | .rti | .pha | .php | .pla | .plp => true
  | _ => false

/-- The flags an effect writes, `true` at the flags written (R28). -/
def ReadOp.flagsWritten : ReadOp → Flags
  | .adc | .sbc => ⟨true, true, false, false, true, true⟩
  | .cmp | .cpx | .cpy => ⟨true, false, false, false, true, true⟩
  | .bit => ⟨true, true, false, false, true, false⟩
  | .and | .eor | .ora | .lda | .ldx | .ldy => ⟨true, false, false, false, true, false⟩

def ModifyOp.flagsWritten : ModifyOp → Flags
  | .asl | .lsr | .rol | .ror => ⟨true, false, false, false, true, true⟩
  | .inc | .dec => ⟨true, false, false, false, true, false⟩

def FlagOp.flagsWritten : FlagOp → Flags
  | .clc | .sec => ⟨false, false, false, false, false, true⟩
  | .cld | .sed => ⟨false, false, true, false, false, false⟩
  | .clv => ⟨false, true, false, false, false, false⟩

def Meaning.flagsWritten : Meaning → Flags
  | .reading e _ => e.flagsWritten
  | .modifying m _ | .modifyingA m => m.flagsWritten
  | .flagging f => f.flagsWritten
  | .masking _ | .brk => ⟨false, false, false, true, false, false⟩
  | .loading _ | .pla => ⟨true, false, false, false, true, false⟩
  | .plp | .rti => ⟨true, true, true, true, true, true⟩
  | _ => ⟨false, false, false, false, false, false⟩

def Meaning.readsD : Meaning → Bool
  | .reading .adc _ | .reading .sbc _ | .brk | .php => true
  | _ => false

def Meaning.transfersControl : Meaning → Bool
  | .branching .. | .jmp _ | .jmpIndirect _ | .jsr _ | .rts | .brk | .rti => true
  | _ => false

/-- The length of an instruction that transfers no control; 0 for the others. -/
def Meaning.length : Meaning → Nat
  | .reading _ o => o.length
  | .storing _ p | .modifying _ p => p.length
  | .modifyingA _ | .flagging _ | .masking _ | .loading _ | .txs | .nop | .pha | .php | .pla | .plp => 1
  | .branching .. | .jmp _ | .jmpIndirect _ | .jsr _ | .rts | .brk | .rti => 0

def Meaning.storesTo : Meaning → State → List Addr
  | .storing _ p, s | .modifying _ p, s => [p.address s]
  | .pha, s | .php, s => [stackSlot s 0]
  | .jsr _, s => [stackSlot s 0, stackSlot s 1]
  | .brk, s => [stackSlot s 0, stackSlot s 1, stackSlot s 2]
  | _, _ => []

/-- The accesses of an operand: those of its place, and none without one (R61). -/
def Operand.accesses : Operand → State → List (Bool × Addr)
  | .immediate _, _ | .accumulator, _ => []
  | .memory p, s => loadAccesses p s

def Meaning.accesses : Meaning → State → List (Bool × Addr)
  | .reading _ o, s => o.accesses s
  | .storing _ p, s => storeAccesses p s
  | .modifying _ p, s => p.pointerReads s ++ [(false, p.address s), (true, p.address s)]
  | .jmpIndirect nn, s => pointerReads nn s
  | .jsr _, s => [(true, stackSlot s 0), (true, stackSlot s 1)]
  | .rts, s => [(false, stackAbove s 1), (false, stackAbove s 2)]
  | .brk, s => [(true, stackSlot s 0), (true, stackSlot s 1), (true, stackSlot s 2), (false, irqVector), (false, irqVector + 1)]
  | .rti, s => [(false, stackAbove s 1), (false, stackAbove s 2), (false, stackAbove s 3)]
  | .pha, s | .php, s => [(true, stackSlot s 0)]
  | .pla, s | .plp, s => [(false, stackAbove s 1)]
  | _, _ => []

section
variable (i : Instr) (s : State)

theorem writesA_eq : writesA i = (meaningOf i).writesA := by cases i <;> rfl
theorem writesX_eq : writesX i = (meaningOf i).writesX := by cases i <;> rfl
theorem writesY_eq : writesY i = (meaningOf i).writesY := by cases i <;> rfl
theorem writesS_eq : writesS i = (meaningOf i).writesS := by cases i <;> rfl
theorem flagsWritten_eq : flagsWritten i = (meaningOf i).flagsWritten := by cases i <;> rfl
theorem readsD_eq : readsD i = (meaningOf i).readsD := by cases i <;> rfl
theorem transfersControl_eq : transfersControl i = (meaningOf i).transfersControl := by cases i <;> rfl
theorem storesTo_eq : storesTo i s = (meaningOf i).storesTo s := by cases i <;> rfl
theorem accesses_eq : accesses i s = (meaningOf i).accesses s := by cases i <;> rfl

theorem length_eq (h : transfersControl i = false) : (encode i).length = (meaningOf i).length := by
  cases i <;> first | rfl | cases h

end

/-! ## The frame of each field -/

section
variable (m : Meaning) (s : State)

@[simp] theorem Meaning.after_sys : (m.after s).sys = s.sys := by
  cases m <;> simp [after]

@[simp] theorem Meaning.after_inputs : (m.after s).inputs = s.inputs := by
  cases m <;> simp [after]

@[simp] theorem Meaning.after_nmiPending : (m.after s).nmiPending = s.nmiPending := by
  cases m <;> simp [after]

theorem ReadOp.run_a {e : ReadOp} (h : e.writesA = false) (v : Byte) : (e.run v s).a = s.a := by
  cases e with
  | cmp | cpx | cpy | bit | ldx | ldy => rfl
  | adc | sbc | and | eor | ora | lda => cases h

theorem ReadOp.run_x {e : ReadOp} (h : e ≠ .ldx) (v : Byte) : (e.run v s).x = s.x := by
  have hsum := adc_sbc_eq e v s
  cases e with
  | ldx => exact absurd rfl h
  | adc | sbc => obtain ⟨a, n, o, z, c, k, -, -, hrun⟩ := hsum (by simp); rw [hrun]
  | cmp | cpx | cpy | and | eor | ora | bit | lda | ldy => rfl

theorem ReadOp.run_y {e : ReadOp} (h : e ≠ .ldy) (v : Byte) : (e.run v s).y = s.y := by
  have hsum := adc_sbc_eq e v s
  cases e with
  | ldy => exact absurd rfl h
  | adc | sbc => obtain ⟨a, n, o, z, c, k, -, -, hrun⟩ := hsum (by simp); rw [hrun]
  | cmp | cpx | cpy | and | eor | ora | bit | lda | ldx => rfl

theorem ReadOp.draws_le_run (e : ReadOp) (v : Byte) : s.draws ≤ (e.run v s).draws := by
  have hsum := adc_sbc_eq e v s
  cases e with
  | adc | sbc => obtain ⟨a, n, o, z, c, k, hk, -, hrun⟩ := hsum (by simp); rwa [hrun]
  | cmp | cpx | cpy | and | eor | ora | bit | lda | ldx | ldy => exact le_refl _

/-- Only ADC and SBC draw, and only in decimal mode (R112). -/
theorem ReadOp.run_draws {e : ReadOp} (h : e ≠ .adc ∧ e ≠ .sbc ∨ s.p.d = false) (v : Byte) : (e.run v s).draws = s.draws := by
  have hsum := adc_sbc_eq e v s
  cases e with
  | adc | sbc =>
    obtain ⟨a, n, o, z, c, k, -, hk, hrun⟩ := hsum (by simp)
    rw [hrun]
    exact hk (h.resolve_left (by simp))
  | cmp | cpx | cpy | and | eor | ora | bit | lda | ldx | ldy => rfl

/-- A changes only by an instruction that writes it (R11). -/
theorem Meaning.after_a (h : m.writesA = false) : (m.after s).a = s.a := by
  cases m with
  | reading e o => simp [after, ReadOp.run_a _ h]
  | loading l =>
    cases l with
    | txa | tya => cases h
    | dex | dey | inx | iny | tax | tay | tsx => rfl
  | modifyingA | pla => cases h
  | storing | modifying | branching | flagging | masking | txs | nop | jmp | jmpIndirect | jsr | rts | brk | rti | pha | php | plp =>
    simp [after]

/-- X changes only by an instruction that writes it (R12). -/
theorem Meaning.after_x (h : m.writesX = false) : (m.after s).x = s.x := by
  cases m with
  | reading e o =>
    have he : e ≠ .ldx := by rintro rfl; cases h
    simp [after, ReadOp.run_x _ he]
  | loading l =>
    cases l with
    | dex | inx | tax | tsx => cases h
    | dey | iny | tay | txa | tya => rfl
  | storing | modifying | modifyingA | branching | flagging | masking | txs | nop | jmp | jmpIndirect | jsr | rts | brk | rti | pha
  | php | pla | plp => simp [after]

/-- Y changes only by an instruction that writes it (R13). -/
theorem Meaning.after_y (h : m.writesY = false) : (m.after s).y = s.y := by
  cases m with
  | reading e o =>
    have he : e ≠ .ldy := by rintro rfl; cases h
    simp [after, ReadOp.run_y _ he]
  | loading l =>
    cases l with
    | dey | iny | tay => cases h
    | dex | inx | tax | tsx | txa | tya => rfl
  | storing | modifying | modifyingA | branching | flagging | masking | txs | nop | jmp | jmpIndirect | jsr | rts | brk | rti | pha
  | php | pla | plp => simp [after]

/-- S changes only by an instruction that writes it (R14). -/
theorem Meaning.after_sp (h : m.writesS = false) : (m.after s).sp = s.sp := by
  cases m with
  | txs | jsr | rts | brk | rti | pha | php | pla | plp => cases h
  | reading | storing | modifying | modifyingA | branching | flagging | masking | loading | nop | jmp | jmpIndirect => simp [after]

/-- PC goes past an instruction that transfers no control (R17). -/
theorem Meaning.after_pc (h : m.transfersControl = false) : (m.after s).pc = s.pc + BitVec.ofNat 16 m.length := by
  cases m with
  | branching | jmp | jmpIndirect | jsr | rts | brk | rti => cases h
  | reading | storing | modifying | modifyingA | flagging | masking | loading | txs | nop | pha | php | pla | plp =>
    simp [after, length]

/-- CLI, SEI and PLP, which may hold the old I (R229). -/
def Meaning.holdsMask : Meaning → Bool
  | .masking _ | .plp => true
  | _ => false

/-- The held mask changes only by CLI, SEI and PLP under `I_LATENCY` = one_instruction (R229). -/
theorem Meaning.after_heldMask :
    (m.after s).heldMask =
      if m.holdsMask then (if s.sys.iLatency = .oneInstruction then some s.p.i else s.heldMask) else s.heldMask := by
  cases m with
  | masking | plp => exact State.holdMask_heldMask _ _
  | reading | storing | modifying | modifyingA | branching | flagging | loading | txs | nop | jmp | jmpIndirect | jsr | rts | brk
  | rti | pha | php | pla => simp [after, holdsMask]

/-- Draws are only ever added. -/
theorem Meaning.draws_le_after : s.draws ≤ (m.after s).draws := by
  cases m with
  | reading e o => simpa [after] using ReadOp.draws_le_run (o.fetched s) e (o.data s)
  | loading l => cases l <;> exact le_refl _
  | brk | php => simp [after, State.afterEntry, afterStatusByte_draws]
  | storing | modifying | modifyingA | branching | flagging | masking | txs | nop | jmp | jmpIndirect | jsr | rts | rti | pha | pla
  | plp => simp [after]

/-- Draws are made only by ADC and SBC in decimal mode and by PHP and BRK under R27's variant. -/
theorem Meaning.after_draws (h : m.readsD = false ∨ s.p.d = false ∧ s.sys.pushBits = .fixed) : (m.after s).draws = s.draws := by
  have hd : m.readsD = true → s.p.d = false ∧ s.sys.pushBits = .fixed := fun hm => h.resolve_left (by simp [hm])
  cases m with
  | reading e o =>
    have he : e ≠ .adc ∧ e ≠ .sbc ∨ (o.fetched s).p.d = false := by
      cases e with
      | adc | sbc => exact .inr (by simpa using (hd rfl).1)
      | cmp | cpx | cpy | and | eor | ora | bit | lda | ldx | ldy => exact .inl ⟨by simp, by simp⟩
    simp [after, ReadOp.run_draws (o.fetched s) he]
  | loading l => cases l <;> rfl
  | brk | php => simp [after, State.afterEntry, afterStatusByte_draws, (hd rfl).2]
  | storing | modifying | modifyingA | branching | flagging | masking | txs | nop | jmp | jmpIndirect | jsr | rts | rti | pha | pla
  | plp => simp [after]

end

/-! ## The statements about registers and the remaining state -/

theorem holdsMask_eq (i : Instr) : (meaningOf i).holdsMask = decide (i ∈ [.cli, .sei, .plp]) := by
  cases i <;> rfl

/-- Settles O38: what each class keeps of A, X, Y and S. -/
theorem registerFrame : Obligations.RegisterFrame := by
  intro i s t h
  obtain ⟨-, rfl⟩ := exec_eq_next.mp h
  rw [writesA_eq, writesX_eq, writesY_eq, writesS_eq]
  exact ⟨Meaning.after_a _ s, Meaning.after_x _ s, Meaning.after_y _ s, Meaning.after_sp _ s⟩

/-- Settles O40: PC goes past the bytes of the form. -/
theorem pcAdvancesByLength : Obligations.PcAdvancesByLength := by
  intro i s t h hcontrol
  obtain ⟨-, rfl⟩ := exec_eq_next.mp h
  rw [length_eq i hcontrol, Meaning.after_pc _ s (by rw [← transfersControl_eq, hcontrol])]
  apply BitVec.eq_of_toNat_eq
  simp [BitVec.toNat_add, Nat.add_mod]

end Sys2Proof.Machine
end

section
/-! The accesses of every instruction in the order of R61, and what they leave of memory: one relation between a state and a later one,
for each operation and then for each class. -/

namespace Sys2Proof.Machine

/-- From `s` to `t` exactly the accesses `acc` are made, in that order: they are put on record, no cell but those written changes, and
the memory stays canonical. -/
structure Performs (s t : State) (acc : List (Bool × Addr)) : Prop where
  sys : t.sys = s.sys
  bus : ∃ l, t.bus = l ++ s.bus ∧ l.map Access.shape = acc.reverse
  byteAt : ∀ a, (∀ b, (true, b) ∈ acc → s.cellOf a ≠ s.cellOf b) → t.byteAt a = s.byteAt a
  wf : s.mem.wf = true → t.mem.wf = true

/-! ## The operations -/

section
variable {s t u : State} {acc acc' : List (Bool × Addr)}

/-- An update of other fields makes no access. -/
theorem Performs.of_eq (hsys : t.sys = s.sys) (hmem : t.mem = s.mem) (hbus : t.bus = s.bus) : Performs s t [] where
  sys := hsys
  bus := ⟨[], hbus, rfl⟩
  byteAt a _ := State.byteAt_congr hsys hmem a
  wf h := by rwa [hmem]

theorem Performs.trans (h : Performs s t acc) (h' : Performs t u acc') : Performs s u (acc ++ acc') where
  sys := h'.sys.trans h.sys
  bus := by
    obtain ⟨l, hl, hshape⟩ := h.bus
    obtain ⟨l', hl', hshape'⟩ := h'.bus
    exact ⟨l' ++ l, by rw [hl', hl, List.append_assoc], by rw [List.map_append, hshape, hshape', List.reverse_append]⟩
  byteAt a ha := by
    rw [h'.byteAt a fun b hb => ?_, h.byteAt a fun b hb => ha b (List.mem_append_left acc' hb)]
    rw [State.cellOf_congr h.sys, State.cellOf_congr h.sys]
    exact ha b (List.mem_append_right acc hb)
  wf hs := h'.wf (h.wf hs)

/-- An update of other fields after some accesses adds none. -/
theorem Performs.update (h : Performs s t acc) (hsys : u.sys = t.sys) (hmem : u.mem = t.mem) (hbus : u.bus = t.bus) :
    Performs s u acc := by
  simpa using h.trans (Performs.of_eq hsys hmem hbus)

theorem Performs.read (h : Performs s t acc) (a : Addr) : Performs s (t.afterRead a) (acc ++ [(false, a)]) :=
  h.trans { sys := rfl, bus := ⟨[_], rfl, rfl⟩, byteAt := fun _ _ => rfl, wf := id }

theorem Performs.write (h : Performs s t acc) (a : Addr) (v : Byte) : Performs s (t.afterWrite a v) (acc ++ [(true, a)]) :=
  h.trans {
    sys := State.afterWrite_sys t a v
    bus := ⟨[_], State.afterWrite_bus t a v, rfl⟩
    byteAt := fun _ hb => byteAt_afterWrite_other (hb a (List.mem_singleton_self _)) v
    wf := fun hwf => wf_mem_afterWrite hwf a v }

end

theorem Performs.refl (s : State) : Performs s s [] := .of_eq rfl rfl rfl

/-! ## The operand forms -/

/-- Reading a pointer makes its two reads (R85). -/
theorem afterPointer_performs (s : State) (p : Addr) : Performs s (s.afterPointer p) (pointerReads p s) := by
  unfold State.afterPointer pointerReads
  cases pointerHigh s.sys.ptrPageCross p with
  | none => exact .refl s
  | some q => exact ((Performs.refl s).read p).read q

/-- Forming the effective address reads the pointer of an indirect form (R84, R86). -/
theorem settled_performs (p : Place) (s : State) : Performs s (p.settled s) (p.pointerReads s) := by
  cases p with
  | indX | indY => exact afterPointer_performs s _
  | absolute | absoluteX | absoluteY | zeroPage | zeroPageX | zeroPageY => exact .refl s

/-- Reading `DATA` makes the accesses of the operand (R61). -/
theorem fetched_performs (o : Operand) (s : State) : Performs s (o.fetched s) (o.accesses s) := by
  cases o with
  | immediate | accumulator => exact .refl s
  | memory p => exact (settled_performs p s).read (p.address s)

/-! ## The instructions -/

/-- Every meaning makes the accesses of R61's table, and what it writes to memory is among them. -/
theorem Meaning.performs (m : Meaning) (s : State) : Performs s (m.after s) (m.accesses s) := by
  cases m with
  | reading e o => exact (fetched_performs o s).update (by simp [after]) (by simp [after]) (by simp [after])
  | storing r p => exact ((settled_performs p s).write _ _).update rfl rfl rfl
  | modifying m p =>
    have h := ((settled_performs p s).read (p.address s)).write (p.address s)
      (m.run ((p.settled s).readValue (p.address s)) s.p).1
    rw [List.append_assoc] at h
    exact h.update rfl rfl rfl
  | jmpIndirect nn => exact (afterPointer_performs s nn).update rfl rfl rfl
  | jsr nn => exact (((Performs.refl s).write (stackSlot s 0) _).write (stackSlot s 1) _).update rfl rfl rfl
  | rts => exact (((Performs.refl s).read (stackAbove s 1)).read (stackAbove s 2)).update rfl rfl rfl
  | brk =>
    exact ((((((Performs.refl s).write (stackSlot s 0) _).write (stackSlot s 1) _).write (stackSlot s 2) _).read irqVector).read
      (irqVector + 1)).update rfl rfl rfl
  | rti => exact ((((Performs.refl s).read (stackAbove s 1)).read (stackAbove s 2)).read (stackAbove s 3)).update rfl rfl rfl
  | pha | php => exact ((Performs.refl s).write (stackSlot s 0) _).update rfl rfl rfl
  | pla => exact ((Performs.refl s).read (stackAbove s 1)).update rfl rfl rfl
  | plp => exact ((Performs.refl s).read (stackAbove s 1)).update (by simp [after]) (by simp [after]) (by simp [after])
  | modifyingA | branching | flagging | masking | loading | txs | nop | jmp =>
    exact .of_eq (by simp [after]) (by simp [after]) (by simp [after])

theorem write_not_mem_pointerReads (p : Addr) (s : State) (b : Addr) : (true, b) ∉ pointerReads p s := by
  unfold pointerReads; split <;> simp

theorem Place.write_not_mem_pointerReads (p : Place) (s : State) (b : Addr) : (true, b) ∉ p.pointerReads s := by
  cases p with
  | indX | indY => exact Machine.write_not_mem_pointerReads _ s b
  | absolute | absoluteX | absoluteY | zeroPage | zeroPageX | zeroPageY => exact List.not_mem_nil

/-- The addresses written are those the instruction stores to. -/
theorem Meaning.mem_storesTo_of_write {m : Meaning} {s : State} {b : Addr} (h : (true, b) ∈ m.accesses s) : b ∈ m.storesTo s := by
  cases m with
  | reading e o =>
    cases o with
    | immediate | accumulator => cases h
    | memory p => simp [accesses, Operand.accesses, loadAccesses, p.write_not_mem_pointerReads] at h
  | storing r p | modifying m p =>
    simpa [accesses, storeAccesses, storesTo, p.write_not_mem_pointerReads] using h
  | jmpIndirect nn => exact absurd h (write_not_mem_pointerReads nn s b)
  | jsr | brk | pha | php => simpa [accesses, storesTo] using h
  | rts | rti | pla | plp => simp [accesses] at h
  | modifyingA | branching | flagging | masking | loading | txs | nop | jmp => cases h

/-- An instruction that answers makes its accesses. -/
theorem exec_performs {i : Instr} {s t : State} (h : exec i s = .next t) : Performs s t (accesses i s) := by
  obtain ⟨-, rfl⟩ := exec_eq_next.mp h
  rw [accesses_eq]
  exact Meaning.performs _ s

/-! ## The flags -/

/-- `g` agrees with `f` at the flags where `w` is 0. -/
def Flags.AgreesBut (w f g : Flags) : Prop :=
  (w.n = false → g.n = f.n) ∧ (w.v = false → g.v = f.v) ∧ (w.d = false → g.d = f.d) ∧ (w.i = false → g.i = f.i) ∧
    (w.z = false → g.z = f.z) ∧ (w.c = false → g.c = f.c)

theorem Flags.AgreesBut.refl (w f : Flags) : AgreesBut w f f := by simp [AgreesBut]

theorem ReadOp.run_flags (e : ReadOp) (v : Byte) (s : State) : e.flagsWritten.AgreesBut s.p (e.run v s).p := by
  have hsum := adc_sbc_eq e v s
  cases e with
  | adc | sbc =>
    obtain ⟨a, n, o, z, c, k, -, -, hrun⟩ := hsum (by simp)
    rw [hrun]
    simp [flagsWritten, Flags.AgreesBut]
  | cmp | cpx | cpy => simp [flagsWritten, Flags.AgreesBut, run, compareA, compareX, compareY, compareFlags]
  | bit => simp [flagsWritten, Flags.AgreesBut, run, bitTest]
  | and | eor | ora | lda | ldx | ldy => simp [flagsWritten, Flags.AgreesBut, run, andA, eorA, oraA, Machine.lda, Machine.ldx, Machine.ldy]

theorem ModifyOp.run_flags (m : ModifyOp) (v : Byte) (f : Flags) : m.flagsWritten.AgreesBut f (m.run v f).2 := by
  cases m with
  | asl | lsr | rol | ror => simp [flagsWritten, Flags.AgreesBut, run, Machine.asl, Machine.lsr, Machine.rol, Machine.ror, shifted]
  | inc | dec => simp [flagsWritten, Flags.AgreesBut, run, increment, decrement]

/-- Each class changes at most the flags of R28's row. -/
theorem Meaning.after_flags (m : Meaning) (s : State) : m.flagsWritten.AgreesBut s.p (m.after s).p := by
  cases m with
  | reading e o => simpa [after, flagsWritten] using e.run_flags (o.data s) (o.fetched s)
  | modifying m p => exact m.run_flags _ s.p
  | modifyingA m => exact m.run_flags s.a s.p
  | flagging f => cases f <;> simp [flagsWritten, FlagOp.flagsWritten, Flags.AgreesBut, after, FlagOp.run]
  | loading l => cases l <;> simp [flagsWritten, Flags.AgreesBut, after, LoadOp.run]
  | masking | pla => simp [flagsWritten, Flags.AgreesBut, after]
  | brk => simp [flagsWritten, Flags.AgreesBut, after, State.afterEntry]
  | plp | rti => simp [flagsWritten, Flags.AgreesBut]
  | storing | branching | txs | nop | jmp | jmpIndirect | jsr | rts | pha | php => simp [flagsWritten, Flags.AgreesBut, after]

/-! ## Mirrors -/

/-- Without a mirror every address selects a cell of its own (R49). -/
theorem locate_eq_self {map : List Region} (h : ∀ r ∈ map, ∃ k, r.kind = .plain k) (a : Addr) : (locate map a).2 = a := by
  induction map with
  | nil => rfl
  | cons r rest ih =>
    obtain ⟨⟨k, hk⟩, hrest⟩ := List.forall_mem_cons.mp h
    rw [locate, hk]
    split
    · rfl
    · exact ih hrest

/-! ## The statements -/

/-- Settles O37: what an instruction writes is among the addresses it stores to, and its other accesses change no cell. -/
theorem memoryFrame : Obligations.MemoryFrame := by
  refine ⟨fun i s t h a ha => (exec_performs h).byteAt a fun b hb => ha b ?_, fun s hmap a => locate_eq_self hmap a⟩
  rw [accesses_eq] at hb
  rw [storesTo_eq]
  exact Meaning.mem_storesTo_of_write hb

/-- Settles O46: the record grows by the accesses of R61's table. -/
theorem accessesInOrder : Obligations.AccessesInOrder := by
  intro i s t h
  obtain ⟨l, hbus, hshape⟩ := (exec_performs h).bus
  rw [hbus, List.map_append, hshape]

/-- Settles O39: the flags each class writes are those of its row. -/
theorem flagFrame : Obligations.FlagFrame := by
  intro i s t h
  obtain ⟨-, rfl⟩ := exec_eq_next.mp h
  rw [flagsWritten_eq]
  exact Meaning.after_flags _ s

/-- Settles O41: the fields that no class touches, the record as the accesses extend it, and the draws. -/
theorem otherStateFrame : Obligations.OtherStateFrame := by
  intro i s t h
  obtain ⟨l, hbus, -⟩ := (exec_performs h).bus
  obtain ⟨-, rfl⟩ := exec_eq_next.mp h
  refine ⟨Meaning.after_sys _ s, Meaning.after_inputs _ s, Meaning.after_nmiPending _ s, fun hheld => ?_, ⟨l, hbus.symm⟩,
    Meaning.draws_le_after _ s, fun hdraws => Meaning.after_draws _ s (by rwa [← readsD_eq])⟩
  rw [Meaning.after_heldMask, holdsMask_eq]
  obtain hlatency | hi := hheld
  · simp [hlatency]
  · simp [hi]

end Sys2Proof.Machine
end

section
/-! Steps (spec/60_exceptions.md, spec/30_encoding.md R93, R95): what a fetch reads, what every step keeps, and the two refusals that are
left where memory answers every access. -/

namespace Sys2Proof.Machine

/-! ## The fetch -/

/-- From `s` to `t` accesses are put on record and nothing else happens. -/
def OnlyRecords (s t : State) : Prop := ∃ l, t = { s with bus := l ++ s.bus }

theorem OnlyRecords.trans {s t u : State} (h : OnlyRecords s t) (h' : OnlyRecords t u) : OnlyRecords s u := by
  obtain ⟨l, rfl⟩ := h
  obtain ⟨l', rfl⟩ := h'
  exact ⟨l' ++ l, by rw [List.append_assoc]⟩

theorem afterRead_onlyRecords (s : State) (a : Addr) : OnlyRecords s (s.afterRead a) := ⟨[_], rfl⟩

/-- Reading bytes is reading the first and then the others behind it. -/
theorem fetchBytes_succ_eq_next {n : Nat} {a : Addr} {s t : State} {bytes : List Byte} :
    fetchBytes (n + 1) a s = .next (bytes, t) ↔
      s.readable a = true ∧ ∃ rest, fetchBytes n (a + 1) (s.afterRead a) = .next (rest, t) ∧ bytes = s.readValue a :: rest := by
  simp only [fetchBytes, andThen_eq_next, Prod.exists, readByte_eq_next, Host.Outcome.next.injEq, Prod.mk.injEq]
  constructor
  · rintro ⟨_, _, ⟨hread, rfl, rfl⟩, rest, _, hrest, rfl, rfl⟩
    exact ⟨hread, rest, hrest, rfl⟩
  · rintro ⟨hread, rest, hrest, rfl⟩
    exact ⟨_, _, ⟨hread, rfl, rfl⟩, rest, t, hrest, rfl, rfl⟩

theorem fetchBytes_onlyRecords {n : Nat} {a : Addr} {s t : State} {bytes : List Byte} (h : fetchBytes n a s = .next (bytes, t)) :
    OnlyRecords s t := by
  induction n generalizing a s bytes with
  | zero => cases h; exact ⟨[], rfl⟩
  | succ n ih =>
    obtain ⟨-, rest, hrest, -⟩ := fetchBytes_succ_eq_next.mp h
    exact (afterRead_onlyRecords s a).trans (ih hrest)

/-- A fetch puts its reads on record and changes nothing else: PC stays at the opcode (R16). -/
theorem fetch_onlyRecords {s : State} {r : Instr × State} (h : fetch s = .next r) : OnlyRecords s r.2 := by
  obtain ⟨⟨op, u⟩, hread, h⟩ := andThen_eq_next.mp h
  obtain ⟨-, -, rfl⟩ := readByte_eq_next.mp hread
  split at h
  · simp at h
  · obtain ⟨rest, hrest, h⟩ := andThen_eq_next.mp h
    split at h
    · cases h
      exact (afterRead_onlyRecords s s.pc).trans (fetchBytes_onlyRecords hrest)
    · simp at h

/-- Where every address can be read the bytes asked for are read. -/
theorem fetchBytes_ready {n : Nat} {a : Addr} {s : State} (h : ∀ b, s.readable b = true) :
    ∃ bytes t, fetchBytes n a s = .next (bytes, t) ∧ bytes.length = n := by
  induction n generalizing a s with
  | zero => exact ⟨[], s, rfl, rfl⟩
  | succ n ih =>
    obtain ⟨rest, t, hrest, hlen⟩ := ih (a := a + 1) (s := s.afterRead a) h
    exact ⟨_, t, fetchBytes_succ_eq_next.mpr ⟨h a, rest, hrest, rfl⟩, by rw [List.length_cons, hlen]⟩

/-- The `n` addresses from `a` on, modulo 65536. -/
def addressesFrom (n : Nat) (a : Addr) : List Addr := (List.range n).map fun k => a + BitVec.ofNat 16 k

theorem addressesFrom_succ (n : Nat) (a : Addr) : addressesFrom (n + 1) a = a :: addressesFrom n (a + 1) := by
  have hshift (k : Nat) : a + BitVec.ofNat 16 (k + 1) = a + 1 + BitVec.ofNat 16 k := by
    rw [BitVec.add_assoc, Nat.add_comm k 1, BitVec.ofNat_add]; rfl
  simp only [addressesFrom, List.range_succ_eq_map, List.map_cons, List.map_map, Function.comp_def, hshift]
  rw [BitVec.add_zero]

/-- The state after reads of plain memory at the addresses, in order. -/
def State.afterReads (s : State) (l : List Addr) : State :=
  { s with bus := (l.map fun b => Access.read b (s.byteAt b)).reverse ++ s.bus }

/-- In plain memory the bytes of the cells are read, each on record. -/
theorem fetchBytes_plain {n : Nat} {a : Addr} {s : State} (h : ∀ b ∈ addressesFrom n a, s.plain b = true) :
    fetchBytes n a s = .next ((addressesFrom n a).map s.byteAt, s.afterReads (addressesFrom n a)) := by
  induction n generalizing a s with
  | zero => rfl
  | succ n ih =>
    rw [addressesFrom_succ] at h ⊢
    obtain ⟨hplain, hrest⟩ := List.forall_mem_cons.mp h
    have hvalue : s.readValue a = s.byteAt a := State.readValue_of_plain hplain
    refine fetchBytes_succ_eq_next.mpr ⟨State.readable_of_plain hplain, (addressesFrom n (a + 1)).map s.byteAt, ?_, ?_⟩
    · refine (ih (s := s.afterRead a) hrest).trans ?_
      simp [State.afterReads, State.afterRead, State.record, hvalue, State.byteAt, State.cellOf]
    · rw [List.map_cons, hvalue]

/-- An opcode byte without a row is refused (R93). -/
theorem fetch_of_unlisted {s : State} (hread : s.readable s.pc = true) (hrow : rowOf s.sys.hasRor (s.readValue s.pc) = none) :
    fetch s = .refused (.unlistedOpcode (s.readValue s.pc)) := by
  rw [fetch, readByte_ready hread, andThen_next]
  simp only [lengthOf, hrow, Option.map_none, unlisted_eq]

/-- An opcode byte with a row asks for the operand bytes of its length, and they decode. -/
theorem fetch_of_rowOf {s t : State} {r : Row} {bytes rest : List Byte} {i : Instr} (hread : s.readable s.pc = true)
    (hrow : rowOf s.sys.hasRor (s.readValue s.pc) = some r)
    (hbytes : fetchBytes (r.template.length - 1) (s.pc + 1) (s.afterRead s.pc) = .next (bytes, t))
    (hdecode : decode s.sys.hasRor (s.readValue s.pc :: bytes) = .ok (i, rest)) : fetch s = .next (i, t) := by
  rw [fetch, readByte_ready hread, andThen_next]
  simp only [lengthOf, hrow, Option.map_some, hbytes, andThen_next, hdecode]

/-- Where every address can be read, a fetch answers an instruction or refuses an opcode without a row (R93). -/
theorem fetch_ready {s : State} (h : ∀ b, s.readable b = true) :
    (∃ i t, fetch s = .next (i, t)) ∨ ∃ op, fetch s = .refused (.unlistedOpcode op) ∧ rowOf s.sys.hasRor op = none := by
  cases hrow : rowOf s.sys.hasRor (s.readValue s.pc) with
  | none => exact .inr ⟨s.readValue s.pc, fetch_of_unlisted (h _) hrow, hrow⟩
  | some r =>
    obtain ⟨bytes, t, hbytes, hlen⟩ :=
      fetchBytes_ready (n := r.template.length - 1) (a := s.pc + 1) (s := s.afterRead s.pc) h
    obtain ⟨i, hi⟩ := exists_decode_of_rowOf hrow hlen
    exact .inl ⟨i, t, fetch_of_rowOf (h _) hrow hbytes hi⟩

/-! ## A step, event by event -/

section
variable {s : State}

theorem step_of_reset (h : event s = .reset) : step s = jumpVia resVector (atBoundary s).redrawn := by
  rw [step_eq, h]

theorem step_of_resetInside (h : event s = .resetInside) : step s = jumpVia resVector (atBoundary s).redrawRam.redrawn := by
  rw [step_eq, h]

theorem step_of_nmi (h : event s = .nmi) : step s = enterInterrupt nmiVector s.pc .interrupt ((atBoundary s).setNmiPending false) := by
  rw [step_eq, h]

theorem step_of_irq (h : event s = .irq) : step s = enterInterrupt irqVector s.pc .interrupt (atBoundary s) := by
  rw [step_eq, h]

theorem step_of_instruction (h : event s = .instruction) : step s = andThen (fetch (atBoundary s)) fun r => exec r.1 r.2 := by
  rw [step_eq, h]

end

section
variable (s : State)

@[simp] theorem atBoundary_pc : (atBoundary s).pc = s.pc := by rw [atBoundary_eq]
@[simp] theorem atBoundary_p : (atBoundary s).p = s.p := by rw [atBoundary_eq]
@[simp] theorem atBoundary_mem : (atBoundary s).mem = s.mem := by rw [atBoundary_eq]
@[simp] theorem atBoundary_sys : (atBoundary s).sys = s.sys := by rw [atBoundary_eq]
@[simp] theorem atBoundary_draws : (atBoundary s).draws = s.draws := by rw [atBoundary_eq]
@[simp] theorem atBoundary_bus : (atBoundary s).bus = s.bus := by rw [atBoundary_eq]
@[simp] theorem atBoundary_sp : (atBoundary s).sp = s.sp := by rw [atBoundary_eq]
@[simp] theorem atBoundary_nmiPending : (atBoundary s).nmiPending = s.nmiSeen := by rw [atBoundary_eq]
@[simp] theorem atBoundary_heldMask : (atBoundary s).heldMask = none := by rw [atBoundary_eq]

@[simp] theorem redrawn_pc : s.redrawn.pc = s.pc := by rw [redrawn_eq]
@[simp] theorem redrawn_mem : s.redrawn.mem = s.mem := by rw [redrawn_eq]
@[simp] theorem redrawn_sys : s.redrawn.sys = s.sys := by rw [redrawn_eq]
@[simp] theorem redrawn_inputs : s.redrawn.inputs = s.inputs := by rw [redrawn_eq]
@[simp] theorem redrawn_bus : s.redrawn.bus = s.bus := by rw [redrawn_eq]
@[simp] theorem redrawn_nmiPending : s.redrawn.nmiPending = false := by rw [redrawn_eq]
@[simp] theorem redrawn_heldMask : s.redrawn.heldMask = none := by rw [redrawn_eq]

end

/-! ## What every step keeps -/

/-- The entry sequence makes three writes and reads the vector (R230). -/
theorem afterEntry_performs (s : State) (vec w : Addr) (who : Pusher) : Performs s (s.afterEntry vec w who)
    [(true, stackSlot s 0), (true, stackSlot s 1), (true, stackSlot s 2), (false, vec), (false, vec + 1)] :=
  ((((((Performs.refl s).write (stackSlot s 0) _).write (stackSlot s 1) _).write (stackSlot s 2) _).read vec).read
    (vec + 1)).update rfl rfl rfl

/-- A jump through a vector reads it (R48). -/
theorem jumpVia_performs {vec : Addr} {s t : State} (h : jumpVia vec s = .next t) :
    Performs s t [(false, vec), (false, vec + 1)] := by
  obtain ⟨-, -, rfl⟩ := jumpVia_eq_next.mp h
  exact (((Performs.refl s).read vec).read (vec + 1)).update rfl rfl rfl

/-- What a step from `s` to `t` keeps: the parameters, the record as a history, the canonical form; and that it leaves the NMI latch
clear and holds no mask but under `I_LATENCY` = one_instruction. -/
structure StepKeeps (s t : State) : Prop where
  sys : t.sys = s.sys
  bus : s.bus <:+ t.bus
  nmiPending : t.nmiPending = false
  wf : s.mem.wf = true → t.mem.wf = true
  heldMask : s.sys.iLatency = .oneInstruction ∨ t.heldMask = none

/-- From a state with the parameters, the record and a canonical memory of `s`, accesses keep all that a step keeps. -/
theorem StepKeeps.of_performs {s u t : State} {acc : List (Bool × Addr)} (hsys : u.sys = s.sys) (hbus : u.bus = s.bus)
    (hwf : s.mem.wf = true → u.mem.wf = true) (h : Performs u t acc) (hnmi : t.nmiPending = false)
    (hheld : s.sys.iLatency = .oneInstruction ∨ t.heldMask = none) : StepKeeps s t where
  sys := h.sys.trans hsys
  bus := by
    obtain ⟨l, hl, -⟩ := h.bus
    exact ⟨l, by rw [hl, hbus]⟩
  nmiPending := hnmi
  wf hs := h.wf (hwf hs)
  heldMask := hheld

/-- An instruction ends with the NMI latch it found and holds a mask only under `I_LATENCY` = one_instruction. -/
theorem exec_keeps {i : Instr} {s t : State} (h : exec i s = .next t) (hnmi : s.nmiPending = false) (hheld : s.heldMask = none) :
    StepKeeps s t := by
  refine .of_performs rfl rfl id (exec_performs h) ?_ ?_
  · obtain ⟨-, rfl⟩ := exec_eq_next.mp h
    rw [Meaning.after_nmiPending, hnmi]
  · obtain ⟨-, rfl⟩ := exec_eq_next.mp h
    rw [Meaning.after_heldMask, hheld]
    by_cases hlatency : s.sys.iLatency = .oneInstruction
    · exact .inl hlatency
    · exact .inr (by simp [hlatency])

/-- Every step, whatever happens at its boundary, keeps it. -/
theorem step_keeps {s t : State} (h : step s = .next t) : StepKeeps s t := by
  cases hevent : event s with
  | reset =>
    rw [step_of_reset hevent] at h
    obtain ⟨-, -, ht⟩ := jumpVia_eq_next.mp h
    exact .of_performs (by simp) (by simp) (by simp) (jumpVia_performs h) (by simp [ht]) (.inr (by simp [ht]))
  | resetInside =>
    rw [step_of_resetInside hevent] at h
    obtain ⟨-, -, ht⟩ := jumpVia_eq_next.mp h
    have hwf (hs : s.mem.wf = true) : (atBoundary s).redrawRam.redrawn.mem.wf = true := by
      simpa using Memory.wf_redraw hs s.sys.map s.draws 0x10000
    exact .of_performs (by simp) (by simp) hwf (jumpVia_performs h) (by simp [ht]) (.inr (by simp [ht]))
  | nmi =>
    rw [step_of_nmi hevent] at h
    obtain ⟨-, rfl⟩ := enterInterrupt_eq_next_afterEntry.mp h
    exact .of_performs (by simp) (by simp) (by simp) (afterEntry_performs _ _ _ _) (by simp) (.inr (by simp))
  | irq =>
    obtain ⟨-, hnmi, -, -⟩ := event_eq_irq.mp hevent
    rw [step_of_irq hevent] at h
    obtain ⟨-, rfl⟩ := enterInterrupt_eq_next_afterEntry.mp h
    exact .of_performs (by simp) (by simp) (by simp) (afterEntry_performs _ _ _ _) (by simp [hnmi]) (.inr (by simp))
  | instruction =>
    obtain ⟨-, hnmi, -⟩ := event_eq_instruction.mp hevent
    rw [step_of_instruction hevent] at h
    obtain ⟨⟨i, u⟩, hfetch, hexec⟩ := andThen_eq_next.mp h
    obtain ⟨l, rfl⟩ := fetch_onlyRecords hfetch
    obtain ⟨hsys, hbus, hclear, hwf, hheld⟩ := exec_keeps hexec (by simp [hnmi]) (by simp)
    simp only [atBoundary_sys, atBoundary_mem, atBoundary_bus] at hsys hbus hwf hheld
    exact ⟨hsys, (List.suffix_append l s.bus).trans hbus, hclear, hwf, hheld⟩

theorem State.wf_iff {s : State} :
    s.wf = true ↔ s.mem.wf = true ∧ (s.sys.iLatency = .oneInstruction ∨ s.heldMask = none) := by
  simp [State.wf]

/-- Settles O57: what every step keeps. -/
theorem everyStepKeepsInvariant : Obligations.EveryStepKeepsInvariant := by
  intro s t hs h
  obtain ⟨hmem, -⟩ := State.wf_iff.mp hs
  have hkeeps := step_keeps h
  exact ⟨State.wf_iff.mpr ⟨hkeeps.wf hmem, by rw [hkeeps.sys]; exact hkeeps.heldMask⟩, hkeeps.sys, hkeeps.bus, hkeeps.nmiPending⟩

/-! ## Where memory answers every access -/

theorem State.readable_of_writable {s : State} {a : Addr} (h : s.writable a = true) : s.readable a = true := by
  cases hk : s.kindAt a <;> simp_all [State.writable, State.readable]

/-- A pointer has no address for its high byte only across a page that is refused (R85). -/
theorem pointerHigh_eq_none {policy : PtrPageCross} {p : Addr} : pointerHigh policy p = none ↔ lowByte p = 0xFF ∧ policy = .refuse := by
  unfold pointerHigh
  split
  · cases policy <;> simp_all
  · simp_all

/-- The refusal of a pointer that crosses a page (R85). -/
def RefusesPointer {α : Type} (s : State) (o : Host.Outcome α Fault Refusal) : Prop :=
  ∃ p, o = .refused (.pointerCrossesPage p) ∧ lowByte p = 0xFF ∧ s.sys.ptrPageCross = .refuse

theorem RefusesPointer.andThen {α β : Type} {s : State} {o : Host.Outcome α Fault Refusal} (h : RefusesPointer s o)
    (f : α → Host.Outcome β Fault Refusal) : RefusesPointer s (andThen o f) := by
  obtain ⟨p, rfl, hlow, hpolicy⟩ := h
  exact ⟨p, rfl, hlow, hpolicy⟩

section
variable {s : State} (hwritable : ∀ a, s.writable a = true)
include hwritable

theorem readPointer_refuses {p : Addr} (h : s.pointerReadable p = false) : RefusesPointer s (readPointer p s) := by
  have hread (a : Addr) : s.readable a = true := State.readable_of_writable (hwritable a)
  unfold State.pointerReadable at h
  cases hhigh : pointerHigh s.sys.ptrPageCross p with
  | none => exact ⟨p, by simp [readPointer, hhigh], pointerHigh_eq_none.mp hhigh⟩
  | some q => simp [hhigh, hread] at h

theorem locate_refuses {p : Place} (h : p.reachable s = false) : RefusesPointer s (p.locate s) := by
  cases p with
  | indX n => exact readPointer_refuses hwritable h
  | indY n => exact (readPointer_refuses hwritable h).andThen _
  | absolute | absoluteX | absoluteY | zeroPage | zeroPageX | zeroPageY => cases h

/-- An instruction that is not ready is refused for its pointer. -/
theorem run_refuses {m : Meaning} (h : ¬ m.Ready s) : RefusesPointer s (m.run s) := by
  have hread (a : Addr) : s.readable a = true := State.readable_of_writable (hwritable a)
  cases m with
  | reading e o =>
    cases o with
    | immediate | accumulator => exact absurd rfl h
    | memory p =>
      have hp : p.reachable s = false := by simpa [Meaning.Ready, Operand.ready, hread] using h
      exact ((locate_refuses hwritable hp).andThen _).andThen _
  | storing r p | modifying m p =>
    have hp : p.reachable s = false := by simpa [Meaning.Ready, hread, hwritable] using h
    exact (locate_refuses hwritable hp).andThen _
  | jmpIndirect nn => exact (readPointer_refuses hwritable (by simpa [Meaning.Ready] using h)).andThen _
  | brk => exact absurd ⟨fun k _ => hwritable _, hread _, hread _⟩ h
  | jsr | rts | rti | pha | php | pla | plp => simp [Meaning.Ready, hread, hwritable] at h
  | modifyingA | branching | flagging | masking | loading | txs | nop | jmp => exact absurd trivial h

/-- An entry is always taken. -/
theorem enterInterrupt_answers (vec w : Addr) (who : Pusher) : ∃ t, enterInterrupt vec w who s = .next t := by
  have hread (a : Addr) : s.readable a = true := State.readable_of_writable (hwritable a)
  exact ⟨_, enterInterrupt_eq_next_afterEntry.mpr ⟨⟨fun k _ => hwritable _, hread _, hread _⟩, rfl⟩⟩

/-- A vector can always be jumped through. -/
theorem jumpVia_answers (vec : Addr) : ∃ t, jumpVia vec s = .next t := by
  have hread (a : Addr) : s.readable a = true := State.readable_of_writable (hwritable a)
  exact ⟨_, jumpVia_eq_next.mpr ⟨hread _, hread _, rfl⟩⟩

/-- An instruction answers or is refused for its pointer. -/
theorem exec_answers_or_refuses (i : Instr) : (∃ t, exec i s = .next t) ∨ RefusesPointer s (exec i s) := by
  rw [exec_eq_run]
  by_cases hready : (meaningOf i).Ready s
  · exact .inl ⟨_, Meaning.run_eq_next.mpr ⟨hready, rfl⟩⟩
  · exact .inr (run_refuses hwritable hready)

/-- The three ways a step can go. -/
theorem step_answers_or_refuses :
    (∃ t, step s = .next t) ∨ (∃ op, step s = .refused (.unlistedOpcode op) ∧ rowOf s.sys.hasRor op = none) ∨
      RefusesPointer s (step s) := by
  have hboundary (u : State) (hsys : u.sys = s.sys) (a : Addr) : u.writable a = true := by
    rw [State.writable_congr hsys, hwritable]
  cases hevent : event s with
  | reset => rw [step_of_reset hevent]; exact .inl (jumpVia_answers (hboundary _ (by simp)) resVector)
  | resetInside => rw [step_of_resetInside hevent]; exact .inl (jumpVia_answers (hboundary _ (by simp)) resVector)
  | nmi => rw [step_of_nmi hevent]; exact .inl (enterInterrupt_answers (hboundary _ (by simp)) nmiVector s.pc .interrupt)
  | irq => rw [step_of_irq hevent]; exact .inl (enterInterrupt_answers (hboundary _ (by simp)) irqVector s.pc .interrupt)
  | instruction =>
    rw [step_of_instruction hevent]
    obtain ⟨i, t, hfetch⟩ | ⟨op, hfetch, hrow⟩ :=
      fetch_ready (s := atBoundary s) fun a => State.readable_of_writable (hboundary _ (by simp) a)
    · obtain ⟨l, ht⟩ := fetch_onlyRecords hfetch
      have hsys : t.sys = s.sys := (congrArg State.sys ht).trans (atBoundary_sys s)
      rw [hfetch, andThen_next]
      obtain hnext | ⟨p, hrefused, hlow, hpolicy⟩ := exec_answers_or_refuses (hboundary t hsys) i
      · exact .inl hnext
      · exact .inr (.inr ⟨p, hrefused, hlow, by rw [← hsys, hpolicy]⟩)
    · exact .inr (.inl ⟨op, by rw [hfetch, andThen_refused], by rwa [atBoundary_sys] at hrow⟩)

end

/-- Settles O60: a step answers or is refused in one of the two ways, and a next state has the parameters, so its map. -/
theorem onlyTwoRefusals : Obligations.OnlyTwoRefusals := by
  intro s hwritable
  obtain ⟨t, h⟩ | hrefused := step_answers_or_refuses hwritable
  · exact .inl ⟨t, h, fun a => by rw [State.writable_congr (step_keeps h).sys, hwritable]⟩
  · exact .inr hrefused

/-! ## The instruction at PC -/

/-- Decoded bytes are the encoding and a rest, so the bytes of the encoding's length are the encoding. -/
theorem addressesFrom_byteAt_of_decode {s : State} {a : Addr} {hasRor : Bool} {i : Instr} {rest : List Byte}
    (h : decode hasRor ((addressesFrom 3 a).map s.byteAt) = .ok (i, rest)) :
    (addressesFrom (encode i).length a).map s.byteAt = encode i := by
  obtain ⟨-, hbytes⟩ := encodeOfDecode hasRor _ rest i h
  have hlen : (encode i).length ≤ 3 := by
    have := congrArg List.length hbytes
    simp [addressesFrom] at this
    omega
  have htake := congrArg (List.take (encode i).length) hbytes
  rw [List.take_left] at htake
  rw [← htake]
  simp [addressesFrom, ← List.map_take, List.take_range, Nat.min_eq_left hlen]

/-- In plain memory the fetch reads exactly the bytes of the instruction (R16, R45). -/
theorem fetch_plain {s : State} {i : Instr} {rest : List Byte}
    (hdecode : decode s.sys.hasRor ((addressesFrom 3 s.pc).map s.byteAt) = .ok (i, rest))
    (hplain : ∀ b ∈ addressesFrom (encode i).length s.pc, s.plain b = true) :
    fetch s = .next (i, s.afterReads (addressesFrom (encode i).length s.pc)) := by
  have hbytes := addressesFrom_byteAt_of_decode hdecode
  obtain ⟨hwf, -⟩ := encodeOfDecode _ _ rest i hdecode
  obtain ⟨op, operand, r, hencode, hrow, hspells, hror⟩ := encode_spelled i
  have hlen : (encode i).length = r.template.length - 1 + 1 := by
    rw [hencode, Template.length_eq_of_spells hspells]; rfl
  have hfetched := fetchBytes_plain hplain
  rw [hbytes, hencode, ← hencode, hlen] at hfetched
  obtain ⟨hread, tail, htail, hcons⟩ := fetchBytes_succ_eq_next.mp hfetched
  rw [hencode] at hcons
  obtain ⟨rfl, rfl⟩ := List.cons.inj hcons
  rw [hlen]
  refine fetch_of_rowOf hread (rowOf_eq_some.mpr ⟨?_, hrow⟩) htail (rest := []) ?_
  · rw [hror]; exact hwf
  · simpa [hencode] using decodeOfEncode s.sys.hasRor i [] hwf

/-- Settles O51: with no event but the instruction, the step is the fetch from plain memory and then `exec`. -/
theorem stepRunsDecodedInstruction : Obligations.StepRunsDecodedInstruction := by
  intro s i rest hevent hdecode hplain
  obtain ⟨-, hnmi, -⟩ := event_eq_instruction.mp hevent
  have hlatch : s.nmiPending = false := by
    simp only [State.nmiSeen, Bool.or_eq_false_iff] at hnmi
    exact hnmi.1
  have hboundary : atBoundary s = { s with inputs := s.inputs.tail, heldMask := none } := by
    rw [atBoundary_eq, hnmi, ← hlatch]
  have hthree : [s.byteAt s.pc, s.byteAt (s.pc + 1), s.byteAt (s.pc + 2)] = (addressesFrom 3 s.pc).map s.byteAt := by
    simp [addressesFrom, List.range_succ]
  rw [hthree] at hdecode
  have haddresses : ∀ b ∈ addressesFrom (encode i).length s.pc, s.plain b = true := by
    intro b hb
    obtain ⟨k, hk, rfl⟩ := List.mem_map.mp hb
    exact hplain k (List.mem_range.mp hk)
  have hfetch := fetch_plain (s := { s with inputs := s.inputs.tail, heldMask := none }) hdecode haddresses
  rw [step_of_instruction hevent, hboundary, hfetch, andThen_next]
  simp only [State.afterReads, addressesFrom, List.map_map, Function.comp_def]
  rfl

/-- Settles O49: the opcodes without a row are the listed ones, and the fetch of one is refused. -/
theorem unlistedOpcodesRefused : Obligations.UnlistedOpcodesRefused := by
  refine ⟨fun op rest => decode_cons_eq_unlisted.trans rowOf_true_eq_none,
    fun op rest => decode_cons_eq_unlisted.trans rowOf_false_eq_none, fun s hevent hplain hop => ?_⟩
  have hrow : rowOf s.sys.hasRor (s.byteAt s.pc) = none := by
    obtain hop | ⟨hror, hop⟩ := hop
    · cases s.sys.hasRor
      · exact rowOf_false_eq_none.mpr (List.mem_append_left _ hop)
      · exact rowOf_true_eq_none.mpr hop
    · rw [hror]
      exact rowOf_false_eq_none.mpr (List.mem_append_right _ hop)
  have hvalue : (atBoundary s).readValue (atBoundary s).pc = s.byteAt s.pc := by
    rw [atBoundary_eq]; exact State.readValue_of_plain hplain
  have hread : (atBoundary s).readable (atBoundary s).pc = true := by
    rw [atBoundary_eq]; exact State.readable_of_plain hplain
  rw [step_of_instruction hevent, fetch_of_unlisted hread (by rw [hvalue, atBoundary_sys, hrow]), andThen_refused, hvalue]

/-- Loading a word keeps the canonical form: three bytes are stored (log 4). -/
theorem wf_withFetchWord {s : State} (h : s.wf = true) (nbits w : Nat) : (s.withFetchWord nbits w).wf = true := by
  obtain ⟨hmem, hheld⟩ := State.wf_iff.mp h
  exact State.wf_iff.mpr ⟨(Memory.wf_store (Memory.wf_store (Memory.wf_store hmem _ _) _ _) _ _ :), hheld⟩

/-- Settles O58: the memory is empty and no mask is held at reset. -/
theorem resetKeepsInvariant : Obligations.ResetKeepsInvariant :=
  ⟨rfl, fun nbits w => wf_withFetchWord rfl nbits w⟩

end Sys2Proof.Machine
end

section
/-! BRK, and the boundaries at which an interrupt or a reset is taken (spec/44_system.md R160, spec/60_exceptions.md R223 to R233,
spec/70_reset_and_hazards.md R260, R261). -/

namespace Sys2Proof.Machine

/-! ## The pushed P -/

/-- The byte pushed from P: the six flags, with bit 5 and bit 4 as R27's table has them under `P_PUSH_BITS` = fixed. -/
theorem statusByte_eq_pushedView (who : Pusher) (s : State) : ∃ b5 b4 : Bool,
    (s.sys.pushBits = .fixed → b5 = true ∧ b4 = who.breakBit) ∧ (who = .brk → b4 = true) ∧ statusByte who s = pushedView s.p b5 b4 := by
  simp only [statusByte, toByte_eq]
  cases s.sys.pushBits with
  | fixed => exact ⟨true, who.breakBit, fun _ => ⟨rfl, rfl⟩, by rintro rfl; rfl, rfl⟩
  | draw => exact ⟨_, _, by simp, by rintro rfl; rfl, rfl⟩

/-- Under `P_PUSH_BITS` = fixed a push of P makes no draw (R27). -/
theorem afterStatusByte_draws_of_fixed {s : State} (h : s.sys.pushBits = .fixed) : (afterStatusByte s).draws = s.draws := by
  simp [afterStatusByte_draws, h]

/-- A pulled status byte gives back the flags (R27). -/
theorem flagsOf_statusByte (who : Pusher) (s : State) : flagsOf (statusByte who s) = s.p := by
  unfold statusByte
  cases s.sys.pushBits <;> exact flagsOf_toByte _ _ _

/-! ## BRK -/

/-- Settles O20: BRK is the entry through the IRQ vector with the address of BRK plus 2 and B = 1. -/
theorem brkResult : Obligations.BrkResult := by
  intro s
  refine ⟨⟨rfl, rfl, rfl, rfl⟩, fun h0 h1 h2 hlow hhigh => ?_⟩
  obtain ⟨b5, b4, hfixed, hbrk, hstatus⟩ := statusByte_eq_pushedView .brk s
  obtain rfl := hbrk rfl
  refine ⟨b5, (afterStatusByte s).draws, fun h => ⟨(hfixed h).1, afterStatusByte_draws_of_fixed h⟩, ?_⟩
  have hwritable (k : Nat) (hk : k < 3) : s.writable (stackSlot s k) = true := by
    obtain rfl | rfl | rfl : k = 0 ∨ k = 1 ∨ k = 2 := by omega
    all_goals assumption
  intro w s1 s2 s3 s4
  have hw : (s.pc + 2).toNat = w := by rw [BitVec.toNat_add]; rfl
  have hpushed : s.pushedThree (s.pc + 2) (statusByte .brk s) = s3 := by
    rw [State.pushedThree, hstatus, highByte_eq, lowByte_eq, hw]
  have hentry : exec .brk s = .next (s.afterEntry irqVector (s.pc + 2) .brk) :=
    enterInterrupt_eq_next_afterEntry.mpr ⟨⟨hwritable, hlow, hhigh⟩, rfl⟩
  rw [hentry, State.afterEntry, hpushed, wordOf_eq]
  rfl

/-! ## Entries at a boundary -/

/-- The updates of a boundary at which no mask stays held and no NMI stays latched; `l` are the inputs still to come. -/
def State.cleared (s : State) (l : List Inputs) : State := { s with inputs := l, nmiPending := false, heldMask := none }

theorem cleared_afterWrite (s : State) (l : List Inputs) (a : Addr) (v : Byte) :
    (s.cleared l).afterWrite a v = (s.afterWrite a v).cleared l := by
  unfold State.afterWrite
  rw [State.kindAt_congr (t := s.cleared l) (s := s) rfl]
  split <;> rfl

/-- An entry pushes and reads the same whatever the inputs, the latch and the held mask are. -/
theorem cleared_afterEntry (s : State) (l : List Inputs) (vec w : Addr) (who : Pusher) :
    (s.cleared l).afterEntry vec w who = (s.afterEntry vec w who).cleared l := by
  have hpushed (b : Byte) : (s.cleared l).pushedThree w b = (s.pushedThree w b).cleared l := by
    have hslot (k : Nat) : stackSlot (s.cleared l) k = stackSlot s k := rfl
    simp only [State.pushedThree, hslot, cleared_afterWrite]
  have hdraws : (afterStatusByte (s.cleared l)).draws = (afterStatusByte s).draws := by
    rw [afterStatusByte_draws, afterStatusByte_draws]; rfl
  have hstatus : statusByte who (s.cleared l) = statusByte who s := statusByte_congr rfl rfl rfl who
  rw [State.afterEntry, State.afterEntry, hstatus, hpushed, hdraws]
  rfl

/-- At a boundary with an interrupt the step is the entry sequence, from a state with nothing latched and no mask held. -/
theorem step_of_interrupt {s : State} {vec : Addr} (hres : s.now.res = .none)
    (h : ((s.nmiPending = true ∨ s.now.nmi = true) ∧ vec = nmiVector) ∨
      (s.nmiPending = false ∧ s.now.nmi = false ∧ s.now.irq = true ∧ s.heldMask.getD s.p.i = false ∧ vec = irqVector)) :
    step s = enterInterrupt vec s.pc .interrupt (s.cleared s.inputs.tail) := by
  obtain ⟨hnmi, rfl⟩ | ⟨hlatch, hnmi, hirq, hmask, rfl⟩ := h
  · have hevent : event s = .nmi := event_eq_nmi.mpr ⟨hres, by simpa [State.nmiSeen] using hnmi⟩
    rw [step_of_nmi hevent, atBoundary_eq]
    rfl
  · have hseen : s.nmiSeen = false := by simp [State.nmiSeen, hlatch, hnmi]
    rw [step_of_irq (event_eq_irq.mpr ⟨hres, hseen, hirq, hmask⟩), atBoundary_eq, hseen]
    rfl

/-- Settles O53: both entries are the one sequence, and the boundary's own updates commute with it. -/
theorem interruptEntry : Obligations.InterruptEntry := by
  intro s vec hres hcause h0 h1 h2 hlow hhigh
  obtain ⟨b5, b4, hfixed, -, hstatus⟩ := statusByte_eq_pushedView .interrupt s
  refine ⟨b5, b4, (afterStatusByte s).draws, fun h => ⟨(hfixed h).1, (hfixed h).2, afterStatusByte_draws_of_fixed h⟩, ?_⟩
  have hwritable (k : Nat) (hk : k < 3) : s.writable (stackSlot s k) = true := by
    obtain rfl | rfl | rfl : k = 0 ∨ k = 1 ∨ k = 2 := by omega
    all_goals assumption
  intro s1 s2 s3 s4
  have hpushed : s.pushedThree s.pc (statusByte .interrupt s) = s3 := by
    rw [State.pushedThree, hstatus, highByte_eq, lowByte_eq]
  have hentry : step s = .next ((s.cleared s.inputs.tail).afterEntry vec s.pc .interrupt) := by
    rw [step_of_interrupt hres hcause]
    exact enterInterrupt_eq_next_afterEntry.mpr ⟨⟨hwritable, hlow, hhigh⟩, rfl⟩
  rw [hentry, cleared_afterEntry, State.afterEntry, hpushed, wordOf_eq]
  rfl

/-! ## Reset -/

/-- A reset that reads its vector answers the redrawn registers with I set and PC from the vector (R260). -/
theorem jumpVia_resVector_redrawn {s : State} (hlow : s.readable 0xFFFC = true) (hhigh : s.readable 0xFFFD = true) :
    ∃ (a x y sp : Byte) (n v d z c : Bool), jumpVia resVector s.redrawn = .next { (s.afterRead 0xFFFC).afterRead 0xFFFD with
      a := a, x := x, y := y, sp := sp, p := { n := n, v := v, d := d, i := true, z := z, c := c }
      pc := BitVec.ofNat 16 ((s.readValue 0xFFFC).toNat + 256 * ((s.afterRead 0xFFFC).readValue 0xFFFD).toNat)
      nmiPending := false, heldMask := none, draws := s.draws + 9 } := by
  refine ⟨s.redrawn.a, s.redrawn.x, s.redrawn.y, s.redrawn.sp, s.redrawn.p.n, s.redrawn.p.v, s.redrawn.p.d, s.redrawn.p.z,
    s.redrawn.p.c, jumpVia_eq_next.mpr ⟨?_, ?_, ?_⟩⟩
  · rwa [State.readable_congr (redrawn_sys s)]
  · rwa [State.readable_congr (redrawn_sys s)]
  · rw [← wordOf_eq, redrawn_eq]
    rfl

/-- Settles O52: the reset reads its vector from the state with the registers redrawn and, inside an instruction, RAM redrawn too. -/
theorem resetTaken : Obligations.ResetTaken := by
  intro s hres hlow hhigh
  cases hkind : s.now.res with
  | none => exact absurd hkind hres
  | boundary =>
    obtain ⟨a, x, y, sp, n, v, d, z, c, hjump⟩ :=
      jumpVia_resVector_redrawn (s := { s with inputs := s.inputs.tail, nmiPending := s.nmiSeen, heldMask := none }) hlow hhigh
    refine ⟨s.mem, a, x, y, sp, n, v, d, z, c, s.draws + 9, fun _ => rfl, fun b h => by simp at h, fun _ _ => rfl, ?_⟩
    rw [step_of_reset (event_eq_reset.mpr hkind), atBoundary_eq, hjump]
    rfl
  | inside =>
    obtain ⟨a, x, y, sp, n, v, d, z, c, hjump⟩ := jumpVia_resVector_redrawn
      (s := { s with inputs := s.inputs.tail, nmiPending := s.nmiSeen, heldMask := none }.redrawRam) hlow hhigh
    refine ⟨s.mem.redraw s.sys.map s.draws 0x10000, a, x, y, sp, n, v, d, z, c, s.draws + 0x10000 + 9, fun h => by simp at h, ?_,
      fun cell hcell => Memory.byteAt_redraw_other s.mem s.sys.map s.draws 0x10000 hcell, ?_⟩
    · intro b _ hram
      obtain ⟨j, hfirst, hlast, hbyte⟩ := Memory.byteAt_redraw_ram s.mem s.sys.map s.draws 0x10000 b.isLt hram
      exact ⟨j, hfirst, by omega, hbyte⟩
    · rw [step_of_resetInside (event_eq_resetInside.mpr hkind), atBoundary_eq, hjump]
      rfl

/-! ## Inputs that lose -/

/-- Settles O54: under a reset the latch and the held mask are overwritten, under an NMI the latch is set and cleared, and a masked IRQ
is no event; the inputs are used up in each case. -/
theorem losingInputsIgnored : Obligations.LosingInputsIgnored := by
  intro s
  refine ⟨fun hres b h => ?_, fun hres hnmi b h => ?_, fun hmask b => ?_⟩
  · let t : State := { s with inputs := ⟨s.now.res, b, b⟩ :: s.inputs.tail, nmiPending := b, heldMask := h }
    change step s = step t
    have hnow : t.now.res = s.now.res := rfl
    cases hkind : s.now.res with
    | none => exact absurd hkind hres
    | boundary =>
      rw [step_of_reset (event_eq_reset.mpr hkind), step_of_reset (event_eq_reset.mpr (hnow.trans hkind)), atBoundary_eq, redrawn_eq,
        atBoundary_eq, redrawn_eq]
      rfl
    | inside =>
      rw [step_of_resetInside (event_eq_resetInside.mpr hkind), step_of_resetInside (event_eq_resetInside.mpr (hnow.trans hkind)),
        atBoundary_eq, redrawn_eq, atBoundary_eq, redrawn_eq]
      rfl
  · rw [step_of_interrupt hres (.inl ⟨hnmi, rfl⟩), step_of_interrupt rfl (.inl ⟨.inr rfl, rfl⟩)]
    rfl
  · let t : State := { s with inputs := ⟨s.now.res, s.now.nmi, b⟩ :: s.inputs.tail }
    change step s = step t
    have hboundary : atBoundary t = atBoundary s := by rw [atBoundary_eq, atBoundary_eq]; rfl
    have hevent : event t = event s := by
      have hs : s.irqMask = true := hmask
      have ht : t.irqMask = true := hmask
      simp only [event, hs, ht, Bool.not_true, Bool.and_false]
      rfl
    rw [step_eq, step_eq, hevent, hboundary]

/-! ## The mask after CLI and SEI -/

/-- With only the IRQ line low, the mask alone decides between the IRQ and the instruction (R223, R224). -/
theorem event_of_irq_only {s : State} (hnow : s.now = ⟨.none, false, true⟩) (hlatch : s.nmiPending = false) :
    event s = if s.irqMask then .instruction else .irq := by
  cases hmask : s.irqMask <;> simp [event, State.nmiSeen, hnow, hlatch, hmask]

/-- Settles O55: the next boundary sees the flag written, or the held I. -/
theorem changeOfIGovernsNextBoundary : Obligations.ChangeOfIGovernsNextBoundary := by
  intro s hnow hlatch hheld
  let after (i : Bool) : State := ((s.setP { s.p with i := i }).holdMask s.p.i).advance 1
  have hevent (i : Bool) : event (after i) = if (after i).irqMask then .instruction else .irq :=
    event_of_irq_only (by simpa [State.now, after] using hnow) (by simpa [after] using hlatch)
  have hmask (i : Bool) : (after i).irqMask = if s.sys.iLatency = .oneInstruction then s.p.i else i := by
    by_cases h : s.sys.iLatency = .oneInstruction <;> simp [State.irqMask, after, h, hheld]
  refine ⟨after false, after true, exec_cli s, exec_sei s, fun hlatency => ?_, fun hlatency => ?_⟩
  · simp [hevent, hmask, hlatency]
  · simp [hevent, hmask, hlatency]

/-! ## RTS after JSR, RTI after an entry -/

section
variable {s t : State}

/-- A slot of plain memory reads as its byte. -/
theorem readValue_of_ram {a : Addr} (h : s.kindAt a = .ram) : s.readable a = true ∧ s.readValue a = s.byteAt a := by
  have hplain : s.plain a = true := by rw [State.plain, h]
  exact ⟨State.readable_of_plain hplain, State.readValue_of_plain hplain⟩

/-- The byte `k` above S after `n` pushes is the slot of the push that is `k` before the last (R50, R51). -/
theorem stackAbove_eq_stackSlot {n k : Nat} (hsys : t.sys = s.sys) (hsp : t.sp = s.sp - BitVec.ofNat 8 n) (hk : k ≤ n) :
    stackAbove t k = stackSlot s (n - k) := by
  have hn : BitVec.ofNat 8 n = BitVec.ofNat 8 (n - k) + BitVec.ofNat 8 k := by rw [← BitVec.ofNat_add, Nat.sub_add_cancel hk]
  rw [stackAbove_eq, stackSlot_eq, hsys, hsp, hn, ← BitVec.sub_sub, BitVec.sub_add_cancel]

end

/-- With distinct RAM cells the slots hold what was pushed. -/
theorem byteAt_pushed {s : State} (hram : ∀ k, k < 2 → s.kindAt (stackSlot s k) = .ram)
    (hdistinct : s.cellOf (stackSlot s 0) ≠ s.cellOf (stackSlot s 1)) (high low : Byte) :
    ((s.afterWrite (stackSlot s 0) high).afterWrite (stackSlot s 1) low).byteAt (stackSlot s 0) = high ∧
    ((s.afterWrite (stackSlot s 0) high).afterWrite (stackSlot s 1) low).byteAt (stackSlot s 1) = low := by
  have hsys := State.afterWrite_sys s (stackSlot s 0) high
  constructor
  · rw [byteAt_afterWrite_other (by rwa [State.cellOf_congr hsys, State.cellOf_congr hsys]),
      byteAt_afterWrite_same (hram 0 (by omega))]
  · rw [byteAt_afterWrite_same (by rw [State.kindAt_congr hsys, hram 1 (by omega)])]

/-- Settles O19: the two slots hold the pushed word, which RTS pulls. -/
theorem rtsReturnsAfterJsr : Obligations.RtsReturnsAfterJsr := by
  intro nn s h0 h1 hdistinct
  have hram (k : Nat) (hk : k < 2) : s.kindAt (stackSlot s k) = .ram := by
    obtain rfl | rfl : k = 0 ∨ k = 1 := by omega
    all_goals assumption
  have hwritable (k : Nat) (hk : k < 2) : s.writable (stackSlot s k) = true := by rw [State.writable, hram k hk]
  obtain ⟨hhigh, hlow⟩ := byteAt_pushed hram hdistinct (highByte (s.pc + 2)) (lowByte (s.pc + 2))
  refine ⟨(Meaning.jsr nn).after s, exec_eq_next.mpr ⟨⟨hwritable 0 (by omega), hwritable 1 (by omega)⟩, rfl⟩, rfl, ?_⟩
  intro u hsys hsp hu0 hu1
  replace hu0 : u.byteAt (stackSlot s 0) = highByte (s.pc + 2) := hu0.trans hhigh
  replace hu1 : u.byteAt (stackSlot s 1) = lowByte (s.pc + 2) := hu1.trans hlow
  have husys : u.sys = s.sys := hsys.trans (Meaning.after_sys _ s)
  have hslot1 : stackAbove u 1 = stackSlot s 1 := stackAbove_eq_stackSlot (n := 2) husys hsp (by omega)
  have hslot2 : stackAbove u 2 = stackSlot s 0 := stackAbove_eq_stackSlot (n := 2) husys hsp (by omega)
  have hread1 := readValue_of_ram (s := u) (a := stackAbove u 1) (by rw [hslot1, State.kindAt_congr husys, h1])
  have hread2 := readValue_of_ram (s := u.afterRead (stackAbove u 1)) (a := stackAbove u 2)
    (by rw [hslot2]; exact (State.kindAt_congr (t := u.afterRead (stackAbove u 1)) husys _).trans h0)
  refine ⟨Meaning.rts.after u, exec_eq_next.mpr ⟨⟨hread1.1, hread2.1⟩, rfl⟩, ?_, ?_, rfl, rfl, rfl, rfl, rfl⟩
  · have hword : wordOf (u.readValue (stackAbove u 1)) ((u.afterRead (stackAbove u 1)).readValue (stackAbove u 2)) = s.pc + 2 := by
      rw [hread1.2, hread2.2, byteAt_afterRead, hslot1, hslot2, hu0, hu1, wordOf_bytes]
    calc (Meaning.rts.after u).pc
      _ = s.pc + 2 + 1 := congrArg (· + 1) hword
      _ = s.pc + 3 := by rw [BitVec.add_assoc]; rfl
  · calc (Meaning.rts.after u).sp
      _ = s.sp - 2 + 2 := congrArg (· + 2) hsp
      _ = s.sp := BitVec.sub_add_cancel _ _

/-- With distinct RAM cells the three slots of an entry hold PC, high byte first, and P. -/
theorem byteAt_pushedThree {s : State} (hram : ∀ k, k < 3 → s.kindAt (stackSlot s k) = .ram)
    (hdistinct : ∀ j k, j < k → k < 3 → s.cellOf (stackSlot s j) ≠ s.cellOf (stackSlot s k)) (w : Addr) (status : Byte) :
    (s.pushedThree w status).byteAt (stackSlot s 0) = highByte w ∧ (s.pushedThree w status).byteAt (stackSlot s 1) = lowByte w ∧
      (s.pushedThree w status).byteAt (stackSlot s 2) = status := by
  have hsys : ((s.afterWrite (stackSlot s 0) (highByte w)).afterWrite (stackSlot s 1) (lowByte w)).sys = s.sys := by simp
  obtain ⟨hhigh, hlow⟩ := byteAt_pushed (fun k hk => hram k (by omega)) (hdistinct 0 1 (by omega) (by omega)) (highByte w) (lowByte w)
  refine ⟨?_, ?_, byteAt_afterWrite_same (by rw [State.kindAt_congr hsys, hram 2 (by omega)]) status⟩
  · rw [State.pushedThree, byteAt_afterWrite_other, hhigh]
    rw [State.cellOf_congr hsys, State.cellOf_congr hsys]
    exact hdistinct 0 2 (by omega) (by omega)
  · rw [State.pushedThree, byteAt_afterWrite_other, hlow]
    rw [State.cellOf_congr hsys, State.cellOf_congr hsys]
    exact hdistinct 1 2 (by omega) (by omega)

/-- The step at an NMI or IRQ is the entry through its vector. -/
theorem step_eq_next_of_interrupt {s t : State} (hevent : event s = .nmi ∨ event s = .irq) (h : step s = .next t) :
    ∃ vec, t = (s.afterEntry vec s.pc .interrupt).cleared s.inputs.tail := by
  have hstep : ∃ vec, step s = enterInterrupt vec s.pc .interrupt (s.cleared s.inputs.tail) := by
    obtain hnmi | hirq := hevent
    · obtain ⟨hres, hseen⟩ := event_eq_nmi.mp hnmi
      exact ⟨nmiVector, step_of_interrupt hres (.inl ⟨by simpa [State.nmiSeen] using hseen, rfl⟩)⟩
    · obtain ⟨hres, hseen, hline, hmask⟩ := event_eq_irq.mp hirq
      obtain ⟨hlatch, hedge⟩ : s.nmiPending = false ∧ s.now.nmi = false := by simpa [State.nmiSeen] using hseen
      exact ⟨irqVector, step_of_interrupt hres (.inr ⟨hlatch, hedge, hline, hmask, rfl⟩)⟩
  obtain ⟨vec, hvec⟩ := hstep
  obtain ⟨-, ht⟩ := enterInterrupt_eq_next_afterEntry.mp (hvec.symm.trans h)
  exact ⟨vec, ht.trans (cleared_afterEntry s s.inputs.tail vec s.pc .interrupt)⟩

theorem afterEntry_sp (s : State) (vec w : Addr) (who : Pusher) : (s.afterEntry vec w who).sp = s.sp - 3 := by
  simp [State.afterEntry]

/-- The cells after an entry are those after its pushes. -/
theorem byteAt_afterEntry (s : State) (vec w : Addr) (who : Pusher) (l : List Inputs) (a : Addr) :
    ((s.afterEntry vec w who).cleared l).byteAt a = (s.pushedThree w (statusByte who s)).byteAt a := by
  have hmem : (s.afterEntry vec w who).mem = (s.pushedThree w (statusByte who s)).mem := by simp [State.afterEntry]
  have hsys : (s.afterEntry vec w who).sys = (s.pushedThree w (statusByte who s)).sys := by simp
  exact State.byteAt_congr (t := (s.afterEntry vec w who).cleared l) hsys hmem a

/-- With PC and P of `s` in three RAM slots and S below them, RTI gives back PC, the flags and S (R161). -/
theorem exec_rti_of_pushed {s u : State} {who : Pusher} (hram : ∀ k, k < 3 → s.kindAt (stackSlot s k) = .ram)
    (husys : u.sys = s.sys) (husp : u.sp = s.sp - BitVec.ofNat 8 3) (hhigh : u.byteAt (stackSlot s 0) = highByte s.pc)
    (hlow : u.byteAt (stackSlot s 1) = lowByte s.pc) (hstatus : u.byteAt (stackSlot s 2) = statusByte who s) :
    ∃ v, exec .rti u = .next v ∧ v = { u with pc := s.pc, p := s.p, sp := s.sp, bus := v.bus } := by
  have hslot1 : stackAbove u 1 = stackSlot s 2 := stackAbove_eq_stackSlot (n := 3) husys husp (by omega)
  have hslot2 : stackAbove u 2 = stackSlot s 1 := stackAbove_eq_stackSlot (n := 3) husys husp (by omega)
  have hslot3 : stackAbove u 3 = stackSlot s 0 := stackAbove_eq_stackSlot (n := 3) husys husp (by omega)
  have hread (x : State) (hx : x.sys = s.sys) (k : Nat) (hk : k < 3) :
      x.readable (stackSlot s k) = true ∧ x.readValue (stackSlot s k) = x.byteAt (stackSlot s k) :=
    readValue_of_ram (by rw [State.kindAt_congr hx, hram k hk])
  obtain ⟨hready1, hvalue1⟩ := hread u husys 2 (by omega)
  obtain ⟨hready2, hvalue2⟩ := hread (u.afterRead (stackSlot s 2)) husys 1 (by omega)
  obtain ⟨hready3, hvalue3⟩ := hread ((u.afterRead (stackSlot s 2)).afterRead (stackSlot s 1)) husys 0 (by omega)
  have hp : flagsOf (u.readValue (stackAbove u 1)) = s.p := by
    rw [hslot1, hvalue1, hstatus, flagsOf_statusByte]
  have hpc : u.afterRti.pc = s.pc := by
    rw [State.afterRti, hslot1, hslot2, hslot3, hvalue2, hvalue3, byteAt_afterRead, byteAt_afterRead, byteAt_afterRead,
      hlow, hhigh, wordOf_bytes]
  have hsp3 : u.sp + 3 = s.sp := by rw [husp]; exact BitVec.sub_add_cancel _ _
  refine ⟨u.afterRti, exec_rti_eq_next.mpr ⟨?_, ?_, ?_, rfl⟩, ?_⟩
  · rw [hslot1]; exact hready1
  · rw [hslot2]; exact hready2
  · rw [hslot3]; exact hready3
  · rw [← hpc, ← hp, ← hsp3]
    rfl

/-- Settles O56: the three slots hold PC and P as the entry pushed them, which RTI pulls. -/
theorem rtiResumesInterruptedProgram : Obligations.RtiResumesInterruptedProgram := by
  intro s t hevent hstep hram hdistinct u hsys hsp hbytes
  obtain ⟨vec, rfl⟩ := step_eq_next_of_interrupt hevent hstep
  obtain ⟨hhigh, hlow, hstatus⟩ := byteAt_pushedThree hram hdistinct s.pc (statusByte .interrupt s)
  simp only [byteAt_afterEntry] at hbytes
  have husys : u.sys = s.sys := hsys.trans (afterEntry_sys s vec s.pc .interrupt)
  have husp : u.sp = s.sp - 3 := hsp.trans (afterEntry_sp s vec s.pc .interrupt)
  exact exec_rti_of_pushed hram husys husp ((hbytes 0 (by omega)).trans hhigh) ((hbytes 1 (by omega)).trans hlow)
    ((hbytes 2 (by omega)).trans hstatus)

end Sys2Proof.Machine
end

section
/-! The instructions of the reading class by form (spec/30_encoding.md R89): their rows, and the next state once `DATA` is read. Then
what each effect makes of the state (spec/40_arithmetic.md, spec/41_logic.md, spec/47_load_store.md). -/

namespace Sys2Proof.Machine

/-! ## Rows and next states of the reading class -/

/-- The forms of each effect (R89). -/
def ReadOp.form : ReadOp → Operand → Option (Byte × Instr)
  | .adc => adcForm
  | .sbc => sbcForm
  | .cmp => cmpForm
  | .cpx => cpxForm
  | .cpy => cpyForm
  | .and => andForm
  | .eor => eorForm
  | .ora => oraForm
  | .bit => bitForm
  | .lda => ldaForm
  | .ldx => ldxForm
  | .ldy => ldyForm

section
variable {e : ReadOp} {o : Operand} {op : Byte} {i : Instr}

theorem ReadOp.form_hasRow (h : e.form o = some (op, i)) : HasRow i op o.length (readCost o).1 (readCost o).2 := by
  rcases o with _ | _ | p
  case memory => cases e <;> cases p <;> cases h <;> exact ⟨rfl, rfl, rfl, rfl⟩
  all_goals cases e <;> cases h <;> exact ⟨rfl, rfl, rfl, rfl⟩

theorem ReadOp.form_exec (h : e.form o = some (op, i)) (s : State) : exec i s = readClass o e.run s := by
  rcases o with _ | _ | p
  case memory => cases e <;> cases p <;> cases h <;> rfl
  all_goals cases e <;> cases h <;> rfl

/-- With `DATA` readable the effect is run on it, in the state that differs by the record alone, and PC advances. -/
theorem ReadOp.form_exec_ready (h : e.form o = some (op, i)) {s : State} (hready : o.ready s = true) :
    ∃ l, o.fetched s = { s with bus := l } ∧ exec i s = .next ((e.run (o.data s) { s with bus := l }).advance o.length) := by
  refine ⟨(o.fetched s).bus, fetched_eq o s, ?_⟩
  rw [← fetched_eq, form_exec h, readClass_ready hready]

end

/-- Settles O8: CPX and CPY are compares of X and of Y. -/
theorem cpxCpyResult : Obligations.CpxCpyResult := by
  refine ⟨fun o op i hform => ⟨ReadOp.form_hasRow (e := .cpx) hform, fun s hready => ?_⟩,
    fun o op i hform => ⟨ReadOp.form_hasRow (e := .cpy) hform, fun s hready => ?_⟩⟩
  · obtain ⟨l, hfetched, hexec⟩ := ReadOp.form_exec_ready (e := .cpx) hform hready
    rw [hexec, hfetched, ReadOp.run, compareX, compareFlags_eq]
    rfl
  · obtain ⟨l, hfetched, hexec⟩ := ReadOp.form_exec_ready (e := .cpy) hform hready
    rw [hexec, hfetched, ReadOp.run, compareY, compareFlags_eq]
    rfl

/-- Settles O27: LDA loads `DATA` in A. -/
theorem ldaResult : Obligations.LdaResult := by
  intro o op i hform
  refine ⟨ReadOp.form_hasRow (e := .lda) hform, fun s hready => ?_⟩
  obtain ⟨l, hfetched, hexec⟩ := ReadOp.form_exec_ready (e := .lda) hform hready
  rw [hexec, hfetched]
  rfl

/-- Settles O28: LDX loads `DATA` in X. -/
theorem ldxResult : Obligations.LdxResult := by
  intro o op i hform
  refine ⟨ReadOp.form_hasRow (e := .ldx) hform, fun s hready => ?_⟩
  obtain ⟨l, hfetched, hexec⟩ := ReadOp.form_exec_ready (e := .ldx) hform hready
  rw [hexec, hfetched]
  rfl

/-- Settles O29: LDY loads `DATA` in Y. -/
theorem ldyResult : Obligations.LdyResult := by
  intro o op i hform
  refine ⟨ReadOp.form_hasRow (e := .ldy) hform, fun s hready => ?_⟩
  obtain ⟨l, hfetched, hexec⟩ := ReadOp.form_exec_ready (e := .ldy) hform hready
  rw [hexec, hfetched]
  rfl

/-! ## Logic -/

/-- The three logic effects load in A the byte whose bits are the truth table's (R120). -/
theorem logic_run {e : ReadOp} {table : Bool → Bool → Bool}
    (h : (e, table) ∈ [(ReadOp.and, fun a m => a && m), (.eor, fun a m => a != m), (.ora, fun a m => a || m)]) (a m : Byte) :
    ∃ r : Byte, (∀ k, k < 8 → r.getLsbD k = table (a.getLsbD k) (m.getLsbD k)) ∧
      ∀ s : State, s.a = a → e.run m s = s.loadA r := by
  simp only [List.mem_cons, List.not_mem_nil, or_false, Prod.mk.injEq] at h
  obtain ⟨rfl, rfl⟩ | ⟨rfl, rfl⟩ | ⟨rfl, rfl⟩ := h
  · exact ⟨a &&& m, fun k _ => BitVec.getLsbD_and, by rintro s rfl; rfl⟩
  · exact ⟨a ^^^ m, fun k _ => by rw [BitVec.getLsbD_xor, Bool.bne_eq_xor], by rintro s rfl; rfl⟩
  · exact ⟨a ||| m, fun k _ => BitVec.getLsbD_or, by rintro s rfl; rfl⟩

/-- Settles O10: the three mnemonics load their table's byte. -/
theorem logicResults : Obligations.LogicResults := by
  intro f table hmnemonic o op i hform
  obtain ⟨e, rfl, he⟩ : ∃ e : ReadOp, f = e.form ∧
      (e, table) ∈ [(ReadOp.and, fun a m => a && m), (.eor, fun a m => a != m), (.ora, fun a m => a || m)] := by
    simp only [List.mem_cons, List.not_mem_nil, or_false, Prod.mk.injEq] at hmnemonic
    obtain ⟨rfl, rfl⟩ | ⟨rfl, rfl⟩ | ⟨rfl, rfl⟩ := hmnemonic
    · exact ⟨.and, rfl, by simp⟩
    · exact ⟨.eor, rfl, by simp⟩
    · exact ⟨.ora, rfl, by simp⟩
  refine ⟨ReadOp.form_hasRow hform, fun s hready => ?_⟩
  obtain ⟨l, hfetched, hexec⟩ := ReadOp.form_exec_ready hform hready
  obtain ⟨r, hbits, hrun⟩ := logic_run he s.a (o.data s)
  refine ⟨r, hbits, ?_⟩
  rw [hexec, hfetched, hrun { s with bus := l } rfl]
  rfl

/-- Settles O11: BIT sets N, V and Z and keeps A. -/
theorem bitResult : Obligations.BitResult := by
  intro o op i hform
  refine ⟨ReadOp.form_hasRow (e := .bit) hform, fun s hready => ?_⟩
  obtain ⟨l, hfetched, hexec⟩ := ReadOp.form_exec_ready (e := .bit) hform hready
  rw [hexec, hfetched]
  rfl

/-! ## Binary sums and differences -/

theorem outOfRange_eq (st : Int) : outOfRange st = decide (st < -128 ∨ 127 < st) := by
  rw [outOfRange, Bool.decide_or]

/-- A byte is its value modulo 256. -/
theorem ofNat_mod_256 (k : Nat) : BitVec.ofNat 8 (k % 256) = BitVec.ofNat 8 k := by
  apply BitVec.eq_of_toNat_eq; simp

/-- The byte of a difference that may have borrowed, as R113 writes it. -/
theorem ofInt_of_borrow {t : Int} (hlow : -256 ≤ t) (hhigh : t < 256) :
    BitVec.ofInt 8 t = BitVec.ofNat 8 (if t < 0 then t + 256 else t).toNat := by
  apply BitVec.eq_of_toNat_eq
  rw [BitVec.toNat_ofInt, BitVec.toNat_ofNat]
  split <;> omega

/-- The sum of ADC in the arithmetic of R111. -/
theorem adcBinary_eq (a m : Byte) (c : Bool) : adcBinary a m c =
    { value := BitVec.ofNat 8 ((a.toNat + m.toNat + c.toNat) % 256)
      carry := decide (255 < a.toNat + m.toNat + c.toNat)
      overflow := decide (a.toInt + m.toInt + c.toNat < -128 ∨ 127 < a.toInt + m.toInt + c.toNat) } := by
  rw [adcBinary, outOfRange_eq, ofNat_mod_256]

/-- The difference of SBC in the arithmetic of R113. -/
theorem sbcBinary_eq (a m : Byte) (c : Bool) : sbcBinary a m c =
    let t : Int := (a.toNat : Int) - m.toNat - (1 - c.toNat)
    let st : Int := a.toInt - m.toInt - (1 - c.toNat)
    { value := BitVec.ofNat 8 (if t < 0 then t + 256 else t).toNat, carry := decide (0 ≤ t)
      overflow := decide (st < -128 ∨ 127 < st) } := by
  have ha := a.isLt
  have hm := m.isLt
  have hc : c.toNat ≤ 1 := Bool.toNat_le c
  rw [sbcBinary, outOfRange_eq, ofInt_of_borrow (by omega) (by omega)]

/-- Settles O1: ADC with D = 0 is R111's sum. -/
theorem adcBinaryResult : Obligations.AdcBinaryResult := by
  intro o op i hform
  refine ⟨ReadOp.form_hasRow (e := .adc) hform, fun s hd hready => ?_⟩
  obtain ⟨l, hfetched, hexec⟩ := ReadOp.form_exec_ready (e := .adc) hform hready
  intro t r st
  rw [hexec, hfetched, ReadOp.run, adc_binary (s := { s with bus := l }) hd, adcBinary_eq]
  rfl

/-- Settles O2: SBC with D = 0 is R113's difference. -/
theorem sbcBinaryResult : Obligations.SbcBinaryResult := by
  intro o op i hform
  refine ⟨ReadOp.form_hasRow (e := .sbc) hform, fun s hd hready => ?_⟩
  obtain ⟨l, hfetched, hexec⟩ := ReadOp.form_exec_ready (e := .sbc) hform hready
  intro t r st
  rw [hexec, hfetched, ReadOp.run, sbc_binary (s := { s with bus := l }) hd, sbcBinary_eq]
  rfl

/-- Bit 7 of a byte says that it is 128 or more. -/
theorem getLsbD_seven (b : Byte) : b.getLsbD 7 = decide (128 ≤ b.toNat) := BitVec.msb_eq_decide b

/-- The signed reading of a byte, by its bit 7 (log 31). -/
theorem toInt_eq_of_bit_seven (b : Byte) : b.toInt = if 128 ≤ b.toNat then (b.toNat : Int) - 256 else b.toNat := by
  rw [BitVec.toInt_eq_toNat_cond]
  split <;> split <;> omega

/-- V of a sum by its sign bits: both operands differ in sign from the sum (R111). -/
theorem adcBinary_overflow (a m : Byte) (c : Bool) :
    (adcBinary a m c).overflow = ((a ^^^ (adcBinary a m c).value) &&& (m ^^^ (adcBinary a m c).value)).getLsbD 7 := by
  have ha := a.isLt
  have hm := m.isLt
  have hc : c.toNat ≤ 1 := Bool.toNat_le c
  have hsum : (adcBinary a m c).value.toNat = (a.toNat + m.toNat + c.toNat) % 256 := by rw [adcBinary, BitVec.toNat_ofNat]
  generalize (adcBinary a m c).value = r at hsum
  rw [adcBinary_eq, BitVec.getLsbD_and, BitVec.getLsbD_xor, BitVec.getLsbD_xor]
  simp only [getLsbD_seven, toInt_eq_of_bit_seven]
  by_cases ha7 : 128 ≤ a.toNat <;> by_cases hm7 : 128 ≤ m.toNat <;> by_cases hr7 : 128 ≤ r.toNat <;> simp [ha7, hm7, hr7] <;> omega

/-- The complement `255 - DATA` as a number. -/
theorem complement_toNat (m : Byte) : (BitVec.ofNat 8 (255 - m.toNat)).toNat = 255 - m.toNat := by
  rw [BitVec.toNat_ofNat]; omega

/-- A difference is the sum with the complement (R113). -/
theorem sbcBinary_eq_adcBinary (a m : Byte) (c : Bool) : sbcBinary a m c = adcBinary a (BitVec.ofNat 8 (255 - m.toNat)) c := by
  have ha := a.isLt
  have hm := m.isLt
  have hc : c.toNat ≤ 1 := Bool.toNat_le c
  have hsigned : (BitVec.ofNat 8 (255 - m.toNat)).toInt = -1 - m.toInt := by
    rw [toInt_eq_of_bit_seven, toInt_eq_of_bit_seven, complement_toNat]
    split <;> split <;> omega
  rw [sbcBinary_eq, adcBinary_eq, complement_toNat, hsigned]
  refine Arith.mk.injEq .. ▸ ⟨congrArg (BitVec.ofNat 8) ?_, decide_eq_decide.mpr ?_, decide_eq_decide.mpr ?_⟩
  · split <;> omega
  · omega
  · omega

/-- V of a difference by its sign bits: the operands differ in sign, and so do A and the difference (R113). -/
theorem sbcBinary_overflow (a m : Byte) (c : Bool) : (sbcBinary a m c).overflow = true ↔
    a.getLsbD 7 ≠ m.getLsbD 7 ∧ (sbcBinary a m c).value.getLsbD 7 ≠ a.getLsbD 7 := by
  have hcomplement : (BitVec.ofNat 8 (255 - m.toNat)).getLsbD 7 = !m.getLsbD 7 := by
    have hm := m.isLt
    rw [getLsbD_seven, getLsbD_seven, complement_toNat, ← decide_not, decide_eq_decide]
    omega
  rw [sbcBinary_eq_adcBinary, adcBinary_overflow, BitVec.getLsbD_and, BitVec.getLsbD_xor, BitVec.getLsbD_xor, hcomplement]
  generalize (adcBinary a (BitVec.ofNat 8 (255 - m.toNat)) c).value.getLsbD 7 = r
  cases a.getLsbD 7 <;> cases m.getLsbD 7 <;> cases r <;> simp

/-- Settles O5: binary SBC is binary ADC of the complement. -/
theorem sbcIsAdcOfComplement : Obligations.SbcIsAdcOfComplement := by
  intro m s hd
  have hsbc : exec (.sbcImm m) s = .next ((sbc m s).advance 2) := rfl
  have hadc : exec (.adcImm (BitVec.ofNat 8 (255 - m.toNat))) s = .next ((adc (BitVec.ofNat 8 (255 - m.toNat)) s).advance 2) := rfl
  rw [hsbc, hadc, sbc_binary hd, adc_binary hd, sbcBinary_eq_adcBinary]

/-- Settles O6: V is what the sign-bit formulas say. -/
theorem overflowFromSignBits : Obligations.OverflowFromSignBits := by
  intro m s t hd
  refine ⟨fun h => ?_, fun h => ?_⟩
  · have ht : t = (adc m s).advance 2 := (Host.Outcome.next.inj h).symm
    rw [ht, adc_binary hd]
    exact adcBinary_overflow s.a m s.p.c
  · have ht : t = (sbc m s).advance 2 := (Host.Outcome.next.inj h).symm
    rw [ht, sbc_binary hd]
    exact sbcBinary_overflow s.a m s.p.c

/-! ## Decimal sums and differences -/

theorem validBcd_iff {b : Byte} : validBcd b = true ↔ b.toNat / 16 ≤ 9 ∧ b.toNat % 16 ≤ 9 := by
  simp [validBcd]

/-- The decimal result of valid operands goes to A and C (R112). -/
theorem decimalResult_valid (r : Byte × Bool) (s : State) : ∃ (n v z : Bool) (k : Nat),
    decimalResult true r s = { s with a := r.1, p := { s.p with n := n, v := v, z := z, c := r.2 }, draws := k } := by
  unfold decimalResult
  cases s.sys.decimalFlags
  exact ⟨_, _, _, _, rfl⟩

/-- The digits of a decimal sum of two digits and a carry (R112). -/
theorem bcdOf_mod (t : Nat) : bcdOf (t % 100) = BitVec.ofNat 8 (16 * (t % 100 / 10) + t % 10) := by
  rw [bcdOf, Nat.mod_mod_of_dvd t (by decide)]

/-- Settles O3: A and C are the decimal result. -/
theorem decimalResultOfValidDigits : Obligations.DecimalResultOfValidDigits := by
  refine ⟨fun o op i s hform hd hready ha₁ ha₀ hm₁ hm₀ => ?_, fun o op i s hform hd hready ha₁ ha₀ hm₁ hm₀ => ?_⟩
  all_goals
    have hvalid : (validBcd s.a && validBcd (o.data s)) = true :=
      Bool.and_eq_true_iff.mpr ⟨validBcd_iff.mpr ⟨ha₁, ha₀⟩, validBcd_iff.mpr ⟨hm₁, hm₀⟩⟩
  · obtain ⟨l, hfetched, hexec⟩ := ReadOp.form_exec_ready (e := .adc) hform hready
    obtain ⟨n, v, z, k, hresult⟩ := decimalResult_valid (adcDecimal s.a (o.data s) s.p.c) { s with bus := l }
    refine ⟨n, v, z, k, ?_⟩
    rw [hexec, hfetched, ReadOp.run, adc_decimal (s := { s with bus := l }) hd, hvalid, hresult, adcDecimal, bcdOf_mod]
    rfl
  · obtain ⟨l, hfetched, hexec⟩ := ReadOp.form_exec_ready (e := .sbc) hform hready
    obtain ⟨n, v, z, k, hresult⟩ := decimalResult_valid (sbcDecimal s.a (o.data s) s.p.c) { s with bus := l }
    intro t u
    have hu : (t % 100).toNat = u := by
      have hc : s.p.c.toNat ≤ 1 := Bool.toNat_le _
      simp only [u]
      split <;> omega
    refine ⟨n, v, z, k, ?_⟩
    rw [hexec, hfetched, ReadOp.run, sbc_decimal (s := { s with bus := l }) hd, hvalid, hresult, sbcDecimal, ← hu]
    rfl

/-- Settles O4: with a digit above 9 the result is drawn. -/
theorem decimalResultOfOtherDigits : Obligations.DecimalResultOfOtherDigits := by
  intro f hmnemonic o op i s hform hd hready _
  obtain ⟨e, rfl, he⟩ : ∃ e : ReadOp, f = e.form ∧ (e = .adc ∨ e = .sbc) := by
    simp only [List.mem_cons, List.not_mem_nil, or_false] at hmnemonic
    obtain rfl | rfl := hmnemonic
    · exact ⟨.adc, rfl, .inl rfl⟩
    · exact ⟨.sbc, rfl, .inr rfl⟩
  obtain ⟨l, hfetched, hexec⟩ := ReadOp.form_exec_ready hform hready
  obtain ⟨a, n, v, z, c, k, -, -, hrun⟩ := adc_sbc_eq e (o.data s) { s with bus := l } he
  refine ⟨a, n, v, z, c, k, ?_⟩
  rw [hexec, hfetched, hrun]
  rfl

/-! ## Sixteen-bit addition -/

/-- Adding the low bytes, then the high bytes with the carry, adds the words (R117). -/
theorem adcBinary_bytes (u w : Addr) {lo hi : Arith} (hlo : lo = adcBinary (lowByte u) (lowByte w) false)
    (hhi : hi = adcBinary (highByte u) (highByte w) lo.carry) :
    wordOf lo.value hi.value = u + w ∧ hi.carry = decide (65535 < u.toNat + w.toNat) ∧
      hi.overflow = decide (u.toInt + w.toInt < -32768 ∨ 32767 < u.toInt + w.toInt) := by
  have hu := u.isLt
  have hw := w.isLt
  have hcarry : lo.carry.toNat = (u.toNat % 256 + w.toNat % 256) / 256 := by
    rw [hlo, adcBinary_eq, lowByte_eq, lowByte_eq, BitVec.toNat_ofNat, BitVec.toNat_ofNat, Bool.toNat, Bool.cond_decide]
    simp only [Bool.toNat_false]
    split <;> omega
  have hhigh (v : Addr) : (highByte v).toNat = v.toNat / 256 := by
    have := v.isLt
    rw [highByte_eq, BitVec.toNat_ofNat]; omega
  refine ⟨BitVec.eq_of_toNat_eq ?_, ?_, ?_⟩
  · rw [wordOf_toNat, hhi, adcBinary, BitVec.toNat_ofNat, hcarry, hhigh, hhigh, hlo, adcBinary, BitVec.toNat_ofNat, lowByte_eq,
      lowByte_eq, BitVec.toNat_ofNat, BitVec.toNat_ofNat, BitVec.toNat_add]
    simp only [Bool.toNat_false]
    omega
  · rw [hhi, adcBinary, hcarry, hhigh, hhigh, decide_eq_decide]
    omega
  · have hsigned (v : Addr) : v.toInt = 256 * (highByte v).toInt + v.toNat % 256 := by
      have := v.isLt
      rw [toInt_eq_of_bit_seven, hhigh, BitVec.toInt_eq_toNat_cond]
      split <;> split <;> omega
    rw [hhi, adcBinary_eq, hcarry, hsigned u, hsigned w, decide_eq_decide]
    omega

theorem State.writable_of_ram {s : State} {a : Addr} (h : s.kindAt a = .ram) : s.writable a = true := by rw [writable, h]

theorem exec_staZp_ram {s : State} {k : Byte} (h : s.kindAt (zext16 k) = .ram) :
    exec (.staZp k) s = .next ((s.afterWrite (zext16 k) s.a).advance 2) :=
  storeClass_eq_next (p := .zeroPage k).mpr ⟨rfl, State.writable_of_ram h, rfl⟩

/-- LDA of a constant and ADC of another, with D = 0. -/
theorem execAll_lda_adc {s : State} (hd : s.p.d = false) (v m : Byte) (rest : List Instr) :
    ∃ t, execAll (.ldaImm v :: .adcImm m :: rest) s = execAll rest t ∧ t.a = (adcBinary v m s.p.c).value ∧
      t.p.c = (adcBinary v m s.p.c).carry ∧ t.p.v = (adcBinary v m s.p.c).overflow ∧ t.p.d = false ∧ t.pc = s.pc + 4 ∧
      t.sys = s.sys ∧ t.mem = s.mem := by
  have hloaded : ((s.loadA v).advance 2).p.d = false := hd
  refine ⟨(adc m ((s.loadA v).advance 2)).advance 2, rfl, ?_⟩
  rw [adc_binary hloaded]
  exact ⟨rfl, rfl, rfl, hd, by simp [binaryResult, BitVec.add_assoc], rfl, rfl⟩

/-- Settles O9: the chained ADCs add the words. -/
theorem sixteenBitAddition : Obligations.SixteenBitAddition := by
  intro u w k s hd hram
  obtain ⟨lo, hlo, ha, hc, -, hd', hpc, hsys, -⟩ :=
    execAll_lda_adc (s := (s.setP { s.p with c := false }).advance 1) hd (lowByte u) (lowByte w)
      [.staZp k, .ldaImm (highByte u), .adcImm (highByte w)]
  have hram' : lo.kindAt (zext16 k) = .ram := by rwa [State.kindAt_congr (s := s) hsys]
  obtain ⟨t, hhi, ha', hc', hv', -, hpc', hsys', hmem'⟩ :=
    execAll_lda_adc (s := (lo.afterWrite (zext16 k) lo.a).advance 2) (by simpa using hd') (highByte u) (highByte w) []
  have hbyte : t.byteAt (zext16 k) = lo.a :=
    (State.byteAt_congr hsys' hmem' _).trans (byteAt_afterWrite_same hram' lo.a)
  have hstore : execAll [.staZp k, .ldaImm (highByte u), .adcImm (highByte w)] lo = .next t := by
    rw [execAll, exec_staZp_ram hram', andThen_next, hhi, execAll]
  refine ⟨t, hlo.trans hstore, ?_⟩
  have hcarry : (((lo.afterWrite (zext16 k) lo.a).advance 2).p.c) = lo.p.c := by simp
  rw [hcarry, hc] at ha' hc' hv'
  obtain ⟨hword, hcout, hvout⟩ := adcBinary_bytes u w rfl rfl
  refine ⟨by rw [hbyte, ha, ha']; exact hword, hc'.trans hcout, hv'.trans hvout, ?_⟩
  rw [hpc']
  simp [hpc, BitVec.add_assoc]

end Sys2Proof.Machine
end

section
/-! The instructions that modify a byte, the branches, JMP (nn), and the instructions of one byte on registers, flags and the stack
(spec/42_shift_rotate.md, spec/43_branch_jump.md, spec/45_flag_ops.md, spec/46_incdec.md, spec/48_stack_transfer.md). -/

namespace Sys2Proof.Machine

/-! ## Rows and next states of the modifying class -/

/-- A table of memory forms as one of operand forms, with no accumulator form. -/
def memoryForm (f : Place → Option (Byte × Instr)) : Operand → Option (Byte × Instr)
  | .memory p => f p
  | _ => none

/-- The forms of each modification (R89). -/
def ModifyOp.form : ModifyOp → Operand → Option (Byte × Instr)
  | .asl => aslForm
  | .lsr => lsrForm
  | .rol => rolForm
  | .ror => rorForm
  | .inc => memoryForm incForm
  | .dec => memoryForm decForm

section
variable {m : ModifyOp} {p : Place} {op : Byte} {i : Instr}

theorem ModifyOp.form_memory_hasRow (h : m.form (.memory p) = some (op, i)) : HasRow i op p.length (modifyCost p) false := by
  cases m <;> cases p <;> cases h <;> exact ⟨rfl, rfl, rfl, rfl⟩

theorem ModifyOp.form_memory_meaning (h : m.form (.memory p) = some (op, i)) : meaningOf i = .modifying m p := by
  cases m <;> cases p <;> cases h <;> rfl

/-- No modification goes through a pointer, so forming the address reads nothing. -/
theorem ModifyOp.form_memory_direct (h : m.form (.memory p) = some (op, i)) (s : State) : p.reachable s = true ∧ p.settled s = s := by
  cases p with
  | indX | indY => cases m <;> cases h
  | absolute | absoluteX | absoluteY | zeroPage | zeroPageX | zeroPageY => exact ⟨rfl, rfl⟩

theorem ModifyOp.form_accumulator_hasRow (h : m.form .accumulator = some (op, i)) : HasRow i op 1 2 false := by
  cases m <;> cases h <;> exact ⟨rfl, rfl, rfl, rfl⟩

theorem ModifyOp.form_accumulator_meaning (h : m.form .accumulator = some (op, i)) : meaningOf i = .modifyingA m := by
  cases m <;> cases h <;> rfl

/-- A write and new flags keep PC, so it advances from where the instruction stood (R17). -/
theorem afterWrite_setP_advance (s : State) (a : Addr) (v : Byte) (f : Flags) (len : Nat) :
    ((s.afterWrite a v).setP f).advance len = { s.afterWrite a v with p := f, pc := s.pc + BitVec.ofNat 16 len } := by
  rw [State.advance, State.setP_pc, State.afterWrite_pc]
  rfl

/-- With its byte readable and writable a memory form writes the result back and sets the flags. -/
theorem ModifyOp.form_memory_exec (h : m.form (.memory p) = some (op, i)) {s : State} (hread : s.readable (p.address s) = true)
    (hwrite : s.writable (p.address s) = true) :
    exec i s = .next { (s.afterRead (p.address s)).afterWrite (p.address s) (m.run (s.readValue (p.address s)) s.p).1 with
      p := (m.run (s.readValue (p.address s)) s.p).2, pc := s.pc + BitVec.ofNat 16 p.length } := by
  obtain ⟨hreach, hsettled⟩ := form_memory_direct h s
  rw [exec_eq_next, form_memory_meaning h, Meaning.Ready, Meaning.after, hsettled, afterWrite_setP_advance]
  exact ⟨⟨hreach, hread, hwrite⟩, rfl⟩

theorem ModifyOp.form_accumulator_exec (h : m.form .accumulator = some (op, i)) (s : State) :
    exec i s = .next { s with a := (m.run s.a s.p).1, p := (m.run s.a s.p).2, pc := s.pc + 1 } := by
  rw [exec_eq_next, form_accumulator_meaning h]
  exact ⟨trivial, rfl⟩

end

/-! ## Shifts and rotations -/

/-- The four results in the arithmetic of R131 to R134. -/
theorem shift_run {m : ModifyOp} {result : Nat → Bool → Nat} {out : Byte → Bool}
    (h : (m, result, out) ∈
      [(ModifyOp.asl, fun v _ => 2 * v % 256, fun v => v.getLsbD 7), (.lsr, fun v _ => v / 2, fun v => v.getLsbD 0),
       (.rol, fun v c => (2 * v + c.toNat) % 256, fun v => v.getLsbD 7),
       (.ror, fun v c => 128 * c.toNat + v / 2, fun v => v.getLsbD 0)]) (v : Byte) (f : Flags) :
    m.run v f = shifted (BitVec.ofNat 8 (result v.toNat f.c), out v) f := by
  simp only [List.mem_cons, List.not_mem_nil, or_false, Prod.mk.injEq] at h
  obtain ⟨rfl, rfl, rfl⟩ | ⟨rfl, rfl, rfl⟩ | ⟨rfl, rfl, rfl⟩ | ⟨rfl, rfl, rfl⟩ := h
  · rw [ofNat_mod_256]; rfl
  · rfl
  · rw [ofNat_mod_256]; rfl
  · rfl

/-- Settles O12: a shift or rotation sends its result back to where the operand was. -/
theorem shiftAndRotateResults : Obligations.ShiftAndRotateResults := by
  intro f result out hmnemonic
  obtain ⟨m, rfl, hm⟩ : ∃ m : ModifyOp, f = m.form ∧ (m, result, out) ∈
      [(ModifyOp.asl, fun v _ => 2 * v % 256, fun v => v.getLsbD 7), (.lsr, fun v _ => v / 2, fun v => v.getLsbD 0),
       (.rol, fun v c => (2 * v + c.toNat) % 256, fun v => v.getLsbD 7),
       (.ror, fun v c => 128 * c.toNat + v / 2, fun v => v.getLsbD 0)] := by
    simp only [List.mem_cons, List.not_mem_nil, or_false, Prod.mk.injEq] at hmnemonic
    obtain ⟨rfl, rfl, rfl⟩ | ⟨rfl, rfl, rfl⟩ | ⟨rfl, rfl, rfl⟩ | ⟨rfl, rfl, rfl⟩ := hmnemonic
    · exact ⟨.asl, rfl, by simp⟩
    · exact ⟨.lsr, rfl, by simp⟩
    · exact ⟨.rol, rfl, by simp⟩
    · exact ⟨.ror, rfl, by simp⟩
  refine ⟨fun op i s hform => ⟨ModifyOp.form_accumulator_hasRow hform, ?_⟩,
    fun p op i hform => ⟨ModifyOp.form_memory_hasRow hform, fun s hread hwrite => ?_⟩⟩
  · rw [ModifyOp.form_accumulator_exec hform, shift_run hm]
    rfl
  · rw [ModifyOp.form_memory_exec hform hread hwrite, shift_run hm]
    rfl

/-- What a rotation of A does to A and C alone. -/
def rotateLeft (r : Byte × Bool) : Byte × Bool := rolByte r.1 r.2

/-- The inverse rotation. -/
def rotateRight (r : Byte × Bool) : Byte × Bool := rorByte r.1 r.2

/-- A rotation to the right undoes one to the left (R133, R134). -/
theorem rotateRight_rotateLeft : Function.LeftInverse rotateRight rotateLeft := by
  have hall : ∀ (v : Byte) (c : Bool), rotateRight (rotateLeft (v, c)) = (v, c) := by decide +kernel
  exact fun r => hall r.1 r.2

/-- A and C are nine bits, so nine rotations bring them round (R133). -/
theorem rotateLeft_nine (r : Byte × Bool) : rotateLeft^[9] r = r := by
  have hall : ∀ (v : Byte) (c : Bool), rotateLeft^[9] (v, c) = (v, c) := by decide +kernel
  exact hall r.1 r.2

theorem rotateRight_nine (r : Byte × Bool) : rotateRight^[9] r = r := by
  have hinverse := rotateRight_rotateLeft.iterate 9 r
  rwa [rotateLeft_nine] at hinverse

/-- An instruction that turns A and C by `g`, run n times, turns them by `g` n times. -/
theorem execAll_replicate {i : Instr} {g : Byte × Bool → Byte × Bool}
    (h : ∀ s, ∃ t, exec i s = .next t ∧ (t.a, t.p.c) = g (s.a, s.p.c)) (n : Nat) (s : State) :
    ∃ t, execAll (List.replicate n i) s = .next t ∧ (t.a, t.p.c) = g^[n] (s.a, s.p.c) := by
  induction n generalizing s with
  | zero => exact ⟨s, rfl, rfl⟩
  | succ n ih =>
    obtain ⟨t, hexec, ht⟩ := h s
    obtain ⟨u, hrest, hu⟩ := ih t
    refine ⟨u, ?_, ?_⟩
    · rw [List.replicate_succ, execAll, hexec, andThen_next, hrest]
    · rw [hu, ht, Function.iterate_succ_apply]

theorem exec_rolAcc_rotates (s : State) : ∃ t, exec .rolAcc s = .next t ∧ (t.a, t.p.c) = rotateLeft (s.a, s.p.c) := ⟨_, rfl, rfl⟩

theorem exec_rorAcc_rotates (s : State) : ∃ t, exec .rorAcc s = .next t ∧ (t.a, t.p.c) = rotateRight (s.a, s.p.c) := ⟨_, rfl, rfl⟩

/-- Settles O13: nine rotations either way, and one each way, restore A and C. -/
theorem nineRotationsRestore : Obligations.NineRotationsRestore := by
  intro s
  obtain ⟨t, hexecT, ht⟩ := execAll_replicate exec_rolAcc_rotates 9 s
  obtain ⟨u, hexecU, hu⟩ := execAll_replicate exec_rorAcc_rotates 9 s
  obtain ⟨v, hexecV, hv⟩ := exec_rolAcc_rotates s
  obtain ⟨w, hexecW, hw⟩ := exec_rorAcc_rotates v
  rw [rotateLeft_nine, Prod.mk.injEq] at ht
  rw [rotateRight_nine, Prod.mk.injEq] at hu
  rw [hv, rotateRight_rotateLeft, Prod.mk.injEq] at hw
  refine ⟨t, u, w, hexecT, hexecU, ?_, ht.1, ht.2, hu.1, hu.2, hw⟩
  rw [execAll, hexecV, andThen_next, execAll, hexecW, andThen_next, execAll]

/-! ## INC, DEC and their register forms -/

theorem add_one_eq_ofNat (v : Byte) : v + 1 = BitVec.ofNat 8 ((v.toNat + 1) % 256) := by
  rw [ofNat_mod_256]; bv_omega

theorem sub_one_eq_ofNat (v : Byte) : v - 1 = BitVec.ofNat 8 ((v.toNat + 255) % 256) := by
  rw [ofNat_mod_256]; bv_omega

/-- Settles O25: INC and DEC of memory. -/
theorem incDecMemory : Obligations.IncDecMemory := by
  intro f result hmnemonic p op i hform
  simp only [List.mem_cons, List.not_mem_nil, or_false, Prod.mk.injEq] at hmnemonic
  obtain ⟨rfl, rfl⟩ | ⟨rfl, rfl⟩ := hmnemonic
  · refine ⟨ModifyOp.form_memory_hasRow (m := .inc) hform, fun s hread hwrite => ?_⟩
    rw [ModifyOp.form_memory_exec (m := .inc) hform hread hwrite, ModifyOp.run, increment, add_one_eq_ofNat]
    rfl
  · refine ⟨ModifyOp.form_memory_hasRow (m := .dec) hform, fun s hread hwrite => ?_⟩
    rw [ModifyOp.form_memory_exec (m := .dec) hform hread hwrite, ModifyOp.run, decrement, sub_one_eq_ofNat]
    rfl

/-- Settles O26: DEX, DEY, INX and INY. -/
theorem incDecRegisters : Obligations.IncDecRegisters := by
  have hless {v r : Byte} (h : r.toNat = (v.toNat + 255) % 256) : r = v - 1 := by
    rw [sub_one_eq_ofNat, ← h, BitVec.ofNat_toNat, BitVec.setWidth_eq]
  have hmore {v r : Byte} (h : r.toNat = (v.toNat + 1) % 256) : r = v + 1 := by
    rw [add_one_eq_ofNat, ← h, BitVec.ofNat_toNat, BitVec.setWidth_eq]
  intro s
  refine ⟨⟨⟨rfl, rfl, rfl, rfl⟩, fun r h => ?_⟩, ⟨⟨rfl, rfl, rfl, rfl⟩, fun r h => ?_⟩, ⟨⟨rfl, rfl, rfl, rfl⟩, fun r h => ?_⟩,
    ⟨rfl, rfl, rfl, rfl⟩, fun r h => ?_⟩
  · rw [hless h]; rfl
  · rw [hless h]; rfl
  · rw [hmore h]; rfl
  · rw [hmore h]; rfl

/-! ## Branches -/

/-- The target of a branch in exact arithmetic (R88). -/
theorem branchTarget_eq (pc : Addr) (n : Byte) : branchTarget pc n = BitVec.ofInt 16 ((pc.toNat : Int) + 2 + n.toInt) := by
  rw [BitVec.ofInt_add, BitVec.ofInt_add, BitVec.ofInt_natCast, BitVec.ofNat_toNat, BitVec.setWidth_eq]
  rfl

/-- A branch by its test: the next state and the added cycles (R140, R276). -/
theorem branch_result {i : Instr} {op : Byte} {taken : Bool} {n : Byte} {s : State} (hrow : HasRow i op 2 2 true)
    (hexec : exec i s = branchIf taken n s) (hextra : extraCycles i s = branchExtra taken n s) :
    HasRow i op 2 2 true ∧
    let target : Addr := BitVec.ofInt 16 ((s.pc.toNat : Int) + 2 + n.toInt)
    exec i s = .next { s with pc := if taken = true then target else s.pc + 2 } ∧
    (taken = false → cycles i s = 2) ∧
    (taken = true → highByte target = highByte (s.pc + 2) → highByte target = highByte s.pc → cycles i s = 3) ∧
    (taken = true → highByte target ≠ highByte (s.pc + 2) → highByte target ≠ highByte s.pc → cycles i s = 4) := by
  refine ⟨hrow, ?_⟩
  obtain ⟨-, -, hbase, -⟩ := hrow
  have hcycles : cycles i s = 2 + branchExtra taken n s := by rw [cycles, hbase, hextra]
  have htaken (h : taken = true) :
      cycles i s = 2 + if highByte (branchTarget s.pc n) = highByte (s.pc + 2) then 1 else 2 := by
    rw [hcycles, h, branchExtra, ← branchTarget]
    simp [pagesDiffer]
  rw [← branchTarget_eq]
  refine ⟨hexec, fun h => by rw [hcycles, h]; rfl, fun h hsame _ => ?_, fun h hdiffer _ => ?_⟩
  · rw [htaken h, if_pos hsame]
  · rw [htaken h, if_neg hdiffer]

/-- Settles O14: the eight branches by their tests. -/
theorem branchResults : Obligations.BranchResults := by
  intro f op test hmnemonic n s
  simp only [List.mem_cons, List.not_mem_nil, or_false, Prod.mk.injEq] at hmnemonic
  obtain ⟨rfl, rfl, rfl⟩ | ⟨rfl, rfl, rfl⟩ | ⟨rfl, rfl, rfl⟩ | ⟨rfl, rfl, rfl⟩ | ⟨rfl, rfl, rfl⟩ | ⟨rfl, rfl, rfl⟩ | ⟨rfl, rfl, rfl⟩ |
    ⟨rfl, rfl, rfl⟩ := hmnemonic
  all_goals exact branch_result ⟨rfl, rfl, rfl, rfl⟩ rfl rfl

/-! ## JMP (nn) -/

/-- The address of a pointer's high byte, where it is not refused (R85). -/
theorem pointerHigh_eq_some {policy : PtrPageCross} {p : Addr} (h : lowByte p = 0xFF → policy ≠ .refuse) :
    pointerHigh policy p = some (if lowByte p = 0xFF ∧ policy = .wrap then wordOf 0 (highByte p) else p + 1) := by
  unfold pointerHigh
  by_cases hend : lowByte p = 0xFF
  · cases policy with
    | refuse => exact absurd rfl (h hend)
    | wrap | next => simp [hend]
  · rw [if_neg hend, if_neg fun hwrap => hend hwrap.1]

/-- With both its bytes readable a pointer is read, low byte first. -/
theorem readPointer_ready {s : State} {p q : Addr} (hq : pointerHigh s.sys.ptrPageCross p = some q) (hlow : s.readable p = true)
    (hhigh : s.readable q = true) : readPointer p s =
      .next (wordOf (s.readValue p) ((s.afterRead p).readValue q), (s.afterRead p).afterRead q) := by
  rw [readPointer_eq_next]
  simp [State.pointerReadable, State.pointerValue, State.afterPointer, hq, hlow, hhigh]

/-- A pointer across a page is refused under `PTR_PAGE_CROSS` = refuse (R85). -/
theorem readPointer_refused {s : State} {p : Addr} (hend : lowByte p = 0xFF) (hpolicy : s.sys.ptrPageCross = .refuse) :
    readPointer p s = .refused (.pointerCrossesPage p) := by
  simp [readPointer, pointerHigh, hend, hpolicy]

/-- Settles O16: JMP (nn) goes to the word at the pointer. -/
theorem jumpIndirect : Obligations.JumpIndirect := by
  intro nn s
  refine ⟨⟨rfl, rfl, rfl, rfl⟩, fun q hq hpolicy hlow hhigh => ?_, fun hend hpolicy => ?_⟩
  · rw [hq] at hhigh
    rw [exec_jmpInd, execJmpInd, readPointer_ready (pointerHigh_eq_some hpolicy) hlow hhigh, andThen_next, ← hq, wordOf_eq]
    rfl
  · rw [exec_jmpInd, execJmpInd, readPointer_refused hend hpolicy, andThen_refused]

/-! ## Instructions of one byte -/

/-- Settles O24: CLI and SEI write I. -/
theorem cliSeiResult : Obligations.CliSeiResult := by
  intro s
  refine ⟨⟨⟨rfl, rfl, rfl, rfl⟩, ?_⟩, ⟨rfl, rfl, rfl, rfl⟩, ?_⟩
  · rw [exec_cli, execCli, holdMask_eq]; rfl
  · rw [exec_sei, execSei, holdMask_eq]; rfl

/-- Settles O35: the transfers. -/
theorem transferResults : Obligations.TransferResults := by
  intro s
  exact ⟨⟨⟨rfl, rfl, rfl, rfl⟩, rfl⟩, ⟨⟨rfl, rfl, rfl, rfl⟩, rfl⟩, ⟨⟨rfl, rfl, rfl, rfl⟩, rfl⟩, ⟨⟨rfl, rfl, rfl, rfl⟩, rfl⟩,
    ⟨⟨rfl, rfl, rfl, rfl⟩, rfl⟩, ⟨rfl, rfl, rfl, rfl⟩, rfl⟩

/-- PHP pushes the status byte and counts its draws. -/
theorem exec_php_ready {s : State} (h : s.writable (stackSlot s 0) = true) : exec .php s = .next
    { s.afterWrite (stackSlot s 0) (statusByte .php s) with sp := s.sp - 1, pc := s.pc + 1, draws := (afterStatusByte s).draws } := by
  rw [exec_php, execPhp, pushStatus_eq_next_stackSlot.mpr ⟨h, rfl⟩, andThen_next, State.advance, State.setSp_pc, State.setDraws_pc,
    State.afterWrite_pc]
  rfl

theorem pull_ready {s : State} (h : s.readable (stackAbove s 1) = true) :
    pull s = .next (s.readValue (stackAbove s 1), (s.afterRead (stackAbove s 1)).setSp (s.sp + 1)) :=
  pull_eq_next_stackAbove.mpr ⟨h, rfl, rfl⟩

/-- Settles O32: PHP pushes P with bits 5 and 4 as R27 has them. -/
theorem phpResult : Obligations.PhpResult := by
  intro s
  refine ⟨⟨rfl, rfl, rfl, rfl⟩, fun h => ?_⟩
  obtain ⟨b5, b4, hfixed, -, hbyte⟩ := statusByte_eq_pushedView .php s
  refine ⟨b5, b4, (afterStatusByte s).draws, fun hp => ?_, by rw [exec_php_ready h, hbyte]⟩
  obtain ⟨h5, h4⟩ := hfixed hp
  exact ⟨h5, h4, afterStatusByte_draws_of_fixed hp⟩

/-- Settles O33: PLA pulls A. -/
theorem plaResult : Obligations.PlaResult := by
  intro s
  refine ⟨⟨rfl, rfl, rfl, rfl⟩, fun h => ?_⟩
  rw [exec_pla, execPla, pull_ready h, andThen_next]
  rfl

/-- Settles O34: PLP pulls the flags. -/
theorem plpResult : Obligations.PlpResult := by
  intro s
  refine ⟨⟨rfl, rfl, rfl, rfl⟩, fun h => ?_⟩
  rw [exec_plp, execPlp, pull_ready h, andThen_next, holdMask_eq]
  rfl

/-- With one byte `v` pushed into a RAM slot, the byte above S is `v`. -/
theorem pushed_byte_above {s t : State} {v : Byte} (hram : s.kindAt (stackSlot s 0) = .ram) (hsys : t.sys = s.sys)
    (hsp : t.sp = s.sp - 1) (hmem : t.mem = (s.afterWrite (stackSlot s 0) v).mem) :
    t.readable (stackAbove t 1) = true ∧ t.readValue (stackAbove t 1) = v := by
  have habove : stackAbove t 1 = stackSlot s 0 := stackAbove_eq_stackSlot (n := 1) hsys hsp (le_refl 1)
  have hramT : t.kindAt (stackSlot s 0) = .ram := by rw [State.kindAt_congr hsys, hram]
  obtain ⟨hreadable, hvalue⟩ := readValue_of_ram hramT
  have hbyte : t.byteAt (stackSlot s 0) = (s.afterWrite (stackSlot s 0) v).byteAt (stackSlot s 0) :=
    State.byteAt_congr (hsys.trans (State.afterWrite_sys ..).symm) hmem _
  rw [habove, hvalue, hbyte, byteAt_afterWrite_same hram]
  exact ⟨hreadable, rfl⟩

/-- Settles O36: a pull gives back what was pushed. -/
theorem pullUndoesPush : Obligations.PullUndoesPush := by
  intro s hram
  have hwritable := State.writable_of_ram hram
  constructor
  · let t : State := { s.afterWrite (stackSlot s 0) (statusByte .php s) with
      sp := s.sp - 1, pc := s.pc + 1, draws := (afterStatusByte s).draws }
    have hpush : exec .php s = .next t := exec_php_ready hwritable
    obtain ⟨hreadable, hvalue⟩ := pushed_byte_above (t := t) hram (State.afterWrite_sys ..) rfl rfl
    refine ⟨_, by rw [execAll, hpush, andThen_next, execAll, exec_plp, execPlp, pull_ready hreadable, andThen_next, andThen_next,
      execAll], ?_, ?_, ?_⟩
    · simp [hvalue, flagsOf_statusByte]
    · simp [t]
    · simp [t, BitVec.add_assoc]
  · let t : State := { s.afterWrite (stackSlot s 0) s.a with sp := s.sp - 1, pc := s.pc + 1 }
    have hpush : exec .pha s = .next t := by
      rw [exec_pha, execPha, push_ready hwritable, andThen_next, afterWrite_setSp_advance_one]
    obtain ⟨hreadable, hvalue⟩ := pushed_byte_above (t := t) hram (State.afterWrite_sys ..) rfl rfl
    refine ⟨_, by rw [execAll, hpush, andThen_next, execAll, exec_pla, execPla, pull_ready hreadable, andThen_next, andThen_next,
      execAll], ?_, ?_, ?_⟩
    · simp [hvalue]
    · simp [t]
    · simp [t, BitVec.add_assoc]

end Sys2Proof.Machine
end

section
/-! The effective addresses in exact arithmetic (spec/30_encoding.md R78 to R86), pointers across a page (R85), and what memory holds
(spec/20_memory.md R46). -/

namespace Sys2Proof.Machine

/-! ## Effective addresses -/

theorem zext16_toNat (b : Byte) : (zext16 b).toNat = b.toNat := by
  have := b.isLt
  rw [zext16, BitVec.toNat_setWidth]; omega

/-- A zero-extended byte is the address of the byte's number. -/
theorem zext16_eq (b : Byte) : zext16 b = BitVec.ofNat 16 b.toNat := by
  have := b.isLt
  apply BitVec.eq_of_toNat_eq
  rw [zext16_toNat, BitVec.toNat_ofNat]; omega

/-- Indexing an address by a register is modulo 65536 (R79). -/
theorem add_zext16_eq (nn : Addr) (r : Byte) : nn + zext16 r = BitVec.ofNat 16 ((nn.toNat + r.toNat) % 65536) := by
  apply BitVec.eq_of_toNat_eq
  rw [BitVec.toNat_add, zext16_toNat, BitVec.toNat_ofNat, Nat.mod_mod]

/-- Indexing in the zero page is modulo 256 (R80, R81). -/
theorem zext16_add_eq (n r : Byte) : zext16 (n + r) = BitVec.ofNat 16 ((n.toNat + r.toNat) % 256) := by
  rw [zext16_eq, BitVec.toNat_add]

/-- A pointer in plain memory is the word of its two bytes. -/
theorem pointer_of_plain {s : State} {p q : Addr} (hq : pointerHigh s.sys.ptrPageCross p = some q) (hlow : s.plain p = true)
    (hhigh : s.plain q = true) : s.pointerReadable p = true ∧ s.pointerValue p = wordOf (s.byteAt p) (s.byteAt q) := by
  have hvalue : (s.afterRead p).readValue q = s.byteAt q := State.readValue_of_plain hhigh
  simp [State.pointerReadable, State.pointerValue, hq, State.readable_of_plain hlow, State.readable_of_plain hhigh,
    State.readValue_of_plain hlow, hvalue]

/-- A pointer in the zero page below its last byte crosses no page. -/
theorem pointerHigh_of_ne_255 {policy : PtrPageCross} {b : Byte} (h : b ≠ 0xFF) :
    pointerHigh policy (zext16 b) = some (zext16 b + 1) := by
  have hlow : lowByte (zext16 b) = b := by
    rw [lowByte_eq, zext16_toNat, ofNat_mod_256, BitVec.ofNat_toNat, BitVec.setWidth_eq]
  rw [pointerHigh.eq_def, hlow, if_neg h]

/-- A pointer of a byte below 255, in plain memory. -/
theorem pointer_zext16 {s : State} {b : Byte} {p : Addr} (hp : p.toNat = b.toNat) (hend : p ≠ 0xFF) (hlow : s.plain p = true)
    (hhigh : s.plain (p + 1) = true) : s.pointerReadable (zext16 b) = true ∧
      s.pointerValue (zext16 b) = BitVec.ofNat 16 ((s.byteAt p).toNat + 256 * (s.byteAt (p + 1)).toNat) := by
  obtain rfl : p = zext16 b := BitVec.eq_of_toNat_eq (by rw [hp, zext16_toNat])
  rw [← wordOf_eq]
  exact pointer_of_plain (pointerHigh_of_ne_255 fun h => hend (by rw [h]; rfl)) hlow hhigh

/-- Settles O43: the effective addresses. -/
theorem effectiveAddresses : Obligations.EffectiveAddresses := by
  intro s n nn
  refine ⟨rfl, add_zext16_eq nn s.x, add_zext16_eq nn s.y, zext16_eq n, zext16_add_eq n s.x, zext16_add_eq n s.y,
    fun p hp => pointer_zext16 (hp.trans (BitVec.toNat_add n s.x).symm), fun p hp hend hlow hhigh => ?_⟩
  obtain ⟨hreach, hvalue⟩ := pointer_zext16 hp hend hlow hhigh
  refine ⟨hreach, ?_⟩
  rw [Place.address, hvalue, add_zext16_eq, ← wordOf_eq, wordOf_toNat]

/-! ## Pointers across a page -/

/-- An indirect form reads its pointer first. -/
theorem locate_refused {p : Place} {s : State} {ptr : Addr} {r : Refusal}
    (hp : ∃ n, p = .indX n ∧ zext16 (n + s.x) = ptr ∨ p = .indY n ∧ zext16 n = ptr) (h : readPointer ptr s = .refused r) :
    p.locate s = .refused r := by
  obtain ⟨n, ⟨rfl, rfl⟩ | ⟨rfl, rfl⟩⟩ := hp
  · exact h
  · rw [Place.locate, h, andThen_refused]

theorem ReadOp.form_exec_refused {e : ReadOp} {p : Place} {op : Byte} {i : Instr} {s : State} {r : Refusal}
    (hform : e.form (.memory p) = some (op, i)) (h : p.locate s = .refused r) : exec i s = .refused r := by
  rw [form_exec hform, readClass, Operand.load, h, andThen_refused, andThen_refused]

/-- The seven mnemonics that read through a pointer. -/
def ReadOp.hasIndirect : ReadOp → Bool
  | .adc | .sbc | .cmp | .and | .eor | .ora | .lda => true
  | .cpx | .cpy | .bit | .ldx | .ldy => false

theorem ReadOp.exists_indirect_form {e : ReadOp} {p : Place} (he : e.hasIndirect = true) (hp : ∃ n, p = .indX n ∨ p = .indY n) :
    ∃ op i, e.form (.memory p) = some (op, i) := by
  cases e with
  | cpx | cpy | bit | ldx | ldy => cases he
  | adc | sbc | cmp | and | eor | ora | lda => obtain ⟨n, rfl | rfl⟩ := hp <;> exact ⟨_, _, rfl⟩

/-- Settles O44: a pointer at $00FF. -/
theorem pointerAcrossPage : Obligations.PointerAcrossPage := by
  intro s n p hp
  have hplace : p = .indX n ∧ zext16 (n + s.x) = 0x00FF ∨ p = .indY n ∧ zext16 n = 0x00FF := by
    refine hp.imp (fun ⟨hp, hsum⟩ => ⟨hp, ?_⟩) (fun ⟨hp, hn⟩ => ⟨hp, by rw [hn]; rfl⟩)
    rw [zext16_add_eq, hsum]
    rfl
  refine ⟨fun hpolicy => ?_, fun high hhigh hplain hplainHigh => ?_⟩
  · have hlocate : p.locate s = .refused (.pointerCrossesPage 0x00FF) := locate_refused ⟨n, hplace⟩ (readPointer_refused rfl hpolicy)
    have hindirect : ∃ n, p = .indX n ∨ p = .indY n := ⟨n, hp.imp And.left And.left⟩
    refine ⟨fun f hf => ?_, ?_⟩
    · obtain ⟨e, rfl, he⟩ : ∃ e : ReadOp, f = e.form ∧ e.hasIndirect = true := by
        simp only [List.mem_cons, List.not_mem_nil, or_false] at hf
        obtain rfl | rfl | rfl | rfl | rfl | rfl | rfl := hf
        exacts [⟨.adc, rfl, rfl⟩, ⟨.sbc, rfl, rfl⟩, ⟨.cmp, rfl, rfl⟩, ⟨.and, rfl, rfl⟩, ⟨.eor, rfl, rfl⟩, ⟨.ora, rfl, rfl⟩,
          ⟨.lda, rfl, rfl⟩]
      obtain ⟨op, i, hform⟩ := ReadOp.exists_indirect_form he hindirect
      exact ⟨op, i, hform, ReadOp.form_exec_refused hform hlocate⟩
    · obtain ⟨op, i, hform⟩ : ∃ op i, staForm p = some (op, i) := by
        obtain ⟨n, rfl | rfl⟩ := hindirect
        · exact ⟨_, _, rfl⟩
        · exact ⟨_, _, rfl⟩
      refine ⟨op, i, hform, ?_⟩
      rw [staForm_exec hform, storeClass, hlocate, andThen_refused]
  · have hq : pointerHigh s.sys.ptrPageCross 0x00FF = some high := by
      obtain ⟨hpolicy, rfl⟩ | ⟨hpolicy, rfl⟩ := hhigh <;> rw [hpolicy] <;> rfl
    obtain ⟨hreadable, hvalue⟩ := pointer_of_plain hq hplain hplainHigh
    obtain ⟨rfl, hptr⟩ | ⟨rfl, hptr⟩ := hplace
    · rw [Place.reachable, Place.address, hptr, hvalue, if_neg (by simp)]
      exact ⟨hreadable, (BitVec.add_zero _).symm⟩
    · rw [Place.reachable, Place.address, hptr, hvalue, if_pos rfl]
      exact ⟨hreadable, rfl⟩

/-! ## What memory holds -/

/-- Plain memory reads as its byte, and the read is recorded. -/
theorem readByte_plain {s : State} {a : Addr} (h : s.plain a = true) :
    readByte a s = .next (s.byteAt a, { s with bus := .read a (s.byteAt a) :: s.bus }) := by
  rw [readByte_ready (State.readable_of_plain h), State.afterRead, State.readValue_of_plain h]
  rfl

theorem readByte_nothing {s : State} {a : Addr} (h : s.kindAt a = .nothing) : readByte a s = .refused (.nothingAt a) := by
  simp [readByte, State.readable, h]

theorem afterWrite_of_ram {s : State} {a : Addr} (h : s.kindAt a = .ram) (v : Byte) :
    s.afterWrite a v = { s with mem := (s.afterWrite a v).mem, bus := .write a v :: s.bus } := by
  rw [State.afterWrite, if_pos h]
  rfl

/-- Settles O45: a byte of RAM is what was last written. -/
theorem memoryHoldsWhatWasWritten : Obligations.MemoryHoldsWhatWasWritten := by
  intro s a v
  refine ⟨readByte_plain, fun hram => ?_, fun hrom => writeByte_rom hrom v, fun hnone => ⟨readByte_nothing hnone, writeByte_nothing hnone v⟩⟩
  have hplain : (s.afterWrite a v).plain a = true := by rw [State.plain_congr (s := s) (State.afterWrite_sys s a v), State.plain, hram]
  have hread := readByte_plain hplain
  rw [byteAt_afterWrite_same hram] at hread
  exact ⟨s.afterWrite a v, writeByte_ready (State.writable_of_ram hram), afterWrite_of_ram hram v, _, hread,
    fun b hb => byteAt_afterWrite_other hb v⟩

end Sys2Proof.Machine
end

section
/-! Noninterference (spec/10_state.md R11 to R14, R23): an override of one register, or of D, that a meaning does not read commutes with
its operation, refusals included. -/

namespace Sys2Proof.Machine

/-! ## Outcomes carried along -/

section
variable {α β γ : Type}

theorem andThen_assoc (o : Host.Outcome α Fault Refusal) (f : α → Host.Outcome β Fault Refusal)
    (g : β → Host.Outcome γ Fault Refusal) : andThen (andThen o f) g = andThen o fun x => andThen (f x) g := by
  cases o <;> rfl

theorem andThen_congr (o : Host.Outcome α Fault Refusal) {f g : α → Host.Outcome β Fault Refusal} (h : ∀ x, f x = g x) :
    andThen o f = andThen o g := congrArg (andThen o) (funext h)

end

/-! ## Overrides -/

/-- One register, or D, with the value put in its place. -/
inductive Override where
  | a (v : Byte)
  | x (v : Byte)
  | y (v : Byte)
  | sp (v : Byte)
  | d (b : Bool)

def Override.flags : Override → Flags → Flags
  | .d b, f => { f with d := b }
  | _, f => f

def Override.apply : Override → State → State
  | .a v, s => { s with a := v }
  | .x v, s => { s with x := v }
  | .y v, s => { s with y := v }
  | .sp v, s => { s with sp := v }
  | .d b, s => { s with p := { s.p with d := b } }

/-- The answer of a read with the override made in the state it goes on with. -/
def Override.onResult {α : Type} (o : Override) (r : Result α) : Result α := andThen r fun w => .next (w.1, o.apply w.2)

section
variable (o : Override) (s : State)

@[simp] theorem Override.apply_sys : (o.apply s).sys = s.sys := by cases o <;> rfl
@[simp] theorem Override.apply_mem : (o.apply s).mem = s.mem := by cases o <;> rfl
@[simp] theorem Override.apply_bus : (o.apply s).bus = s.bus := by cases o <;> rfl
@[simp] theorem Override.apply_pc : (o.apply s).pc = s.pc := by cases o <;> rfl
@[simp] theorem Override.apply_draws : (o.apply s).draws = s.draws := by cases o <;> rfl
@[simp] theorem Override.apply_p : (o.apply s).p = o.flags s.p := by cases o <;> rfl

theorem Override.record_apply (e : Access) : (o.apply s).record e = o.apply (s.record e) := by cases o <;> rfl
theorem Override.setMem_apply (m : Memory) : (o.apply s).setMem m = o.apply (s.setMem m) := by cases o <;> rfl
theorem Override.setPc_apply (w : Addr) : (o.apply s).setPc w = o.apply (s.setPc w) := by cases o <;> rfl
theorem Override.setDraws_apply (k : Nat) : (o.apply s).setDraws k = o.apply (s.setDraws k) := by cases o <;> rfl
theorem Override.setHeldMask_apply (b : Option Bool) : (o.apply s).setHeldMask b = o.apply (s.setHeldMask b) := by cases o <;> rfl
theorem Override.setP_apply (f : Flags) : (o.apply s).setP (o.flags f) = o.apply (s.setP f) := by cases o <;> rfl

theorem Override.advance_apply (len : Nat) : (o.apply s).advance len = o.apply (s.advance len) := by
  rw [State.advance, State.advance, apply_pc, setPc_apply]

theorem Override.holdMask_apply (b : Bool) : (o.apply s).holdMask b = o.apply (s.holdMask b) := by
  cases h : s.sys.iLatency <;> simp [State.holdMask, h, setHeldMask_apply]

/-! ## Accesses -/

@[simp] theorem Override.readValue_apply (a : Addr) : (o.apply s).readValue a = s.readValue a := by
  simp [State.readValue, State.kindAt_congr (o.apply_sys s), State.cellOf_congr (o.apply_sys s),
    State.byteAt_congr (o.apply_sys s) (o.apply_mem s)]

theorem Override.readByte_apply (a : Addr) : readByte a (o.apply s) = o.onResult (readByte a s) := by
  unfold readByte
  rw [State.readable_congr (o.apply_sys s), readValue_apply, State.afterRead, readValue_apply, record_apply]
  split <;> rfl

theorem Override.afterWrite_apply (a : Addr) (v : Byte) : (o.apply s).afterWrite a v = o.apply (s.afterWrite a v) := by
  unfold State.afterWrite
  rw [State.kindAt_congr (o.apply_sys s), State.cellOf_congr (o.apply_sys s), apply_mem, setMem_apply, ← record_apply]
  split <;> rfl

theorem Override.writeByte_apply (a : Addr) (v : Byte) : writeByte a v (o.apply s) = mapNext o.apply (writeByte a v s) := by
  unfold writeByte
  rw [State.writable_congr (o.apply_sys s), State.kindAt_congr (o.apply_sys s), afterWrite_apply]
  split
  · rfl
  · split <;> rfl

/-- Two reads in order, then a word made of them. -/
theorem Override.readPair_apply (p q : Addr) : readPair p q (o.apply s) = o.onResult (readPair p q s) := by
  unfold readPair
  rw [readByte_apply, onResult, onResult, andThen_assoc, andThen_assoc]
  refine andThen_congr _ fun low => ?_
  rw [andThen_next, readByte_apply, onResult, andThen_assoc, andThen_assoc]
  rfl

theorem Override.readPointer_apply (p : Addr) : readPointer p (o.apply s) = o.onResult (readPointer p s) := by
  unfold readPointer
  rw [apply_sys]
  split
  · rfl
  · exact readPair_apply o s _ _

/-! ## The operand forms -/

def Place.usesX : Place → Bool
  | .absoluteX _ | .zeroPageX _ | .indX _ => true
  | _ => false

def Place.usesY : Place → Bool
  | .absoluteY _ | .zeroPageY _ | .indY _ => true
  | _ => false

/-- The operand's address is formed from the register. -/
def Override.indexes : Override → Place → Bool
  | .x _, p => p.usesX
  | .y _, p => p.usesY
  | _, _ => false

variable {o s} {p : Place}

theorem Override.apply_x (h : o.indexes p = false) (hp : p.usesX = true) : (o.apply s).x = s.x := by
  cases o with
  | x v => exact absurd hp (by rw [indexes] at h; simp [h])
  | a | y | sp | d => rfl

theorem Override.apply_y (h : o.indexes p = false) (hp : p.usesY = true) : (o.apply s).y = s.y := by
  cases o with
  | y v => exact absurd hp (by rw [indexes] at h; simp [h])
  | a | x | sp | d => rfl

theorem Override.locate_apply (h : o.indexes p = false) : p.locate (o.apply s) = o.onResult (p.locate s) := by
  cases p with
  | absolute | zeroPage => rfl
  | absoluteX | zeroPageX => rw [Place.locate, apply_x h rfl]; rfl
  | absoluteY | zeroPageY => rw [Place.locate, apply_y h rfl]; rfl
  | indX => rw [Place.locate, apply_x h rfl]; exact readPointer_apply o s _
  | indY =>
    rw [Place.locate, apply_y h rfl, readPointer_apply, onResult, andThen_assoc, Place.locate, onResult, andThen_assoc]
    rfl

/-- The operand is read from the register. -/
def Override.givesOperand : Override → Operand → Bool
  | o, .memory p => o.indexes p
  | .a _, .accumulator => true
  | _, _ => false

theorem Override.load_apply {q : Operand} (h : o.givesOperand q = false) : q.load (o.apply s) = o.onResult (q.load s) := by
  cases q with
  | immediate n => rfl
  | accumulator => cases o with
    | a => cases h
    | x | y | sp | d => rfl
  | memory p =>
    have hp : o.indexes p = false := by cases o <;> exact h
    rw [Operand.load, locate_apply hp, onResult, andThen_assoc, Operand.load, onResult, andThen_assoc]
    exact andThen_congr _ fun r => readByte_apply o r.2 r.1

end

end Sys2Proof.Machine
end

section
/-! Noninterference, meaning by meaning (spec/10_state.md R11 to R14, R23). -/

namespace Sys2Proof.Machine

/-! ## What a meaning reads, and whether it writes D -/

def ReadOp.readsA : ReadOp → Bool
  | .adc | .sbc | .cmp | .and | .eor | .ora | .bit => true
  | .cpx | .cpy | .lda | .ldx | .ldy => false

def Operand.isAccumulator : Operand → Bool
  | .accumulator => true
  | _ => false

def Operand.usesX : Operand → Bool
  | .memory p => p.usesX
  | _ => false

def Operand.usesY : Operand → Bool
  | .memory p => p.usesY
  | _ => false

def Meaning.readsA : Meaning → Bool
  | .reading e q => e.readsA || q.isAccumulator
  | .storing .a _ | .modifyingA _ | .loading .tax | .loading .tay | .pha => true
  | _ => false

def Meaning.readsX : Meaning → Bool
  | .reading .cpx _ | .storing .x _ | .loading .dex | .loading .inx | .loading .txa | .txs => true
  | .reading _ q => q.usesX
  | .storing _ p | .modifying _ p => p.usesX
  | _ => false

def Meaning.readsY : Meaning → Bool
  | .reading .cpy _ | .storing .y _ | .loading .dey | .loading .iny | .loading .tya => true
  | .reading _ q => q.usesY
  | .storing _ p | .modifying _ p => p.usesY
  | _ => false

def Meaning.readsS : Meaning → Bool
  | .loading .tsx => true
  | m => m.writesS

def Meaning.writesD : Meaning → Bool
  | .flagging .cld | .flagging .sed | .plp | .rti => true
  | _ => false

section
variable (i : Instr)

theorem readsA_eq : readsA i = (meaningOf i).readsA := by cases i <;> rfl
theorem readsX_eq : readsX i = (meaningOf i).readsX := by cases i <;> rfl
theorem readsY_eq : readsY i = (meaningOf i).readsY := by cases i <;> rfl
theorem writesD_eq : writesD i = (meaningOf i).writesD := by cases i <;> rfl

variable {i}

/-- Beside the instructions that write S, TSX alone reads it (R14). -/
theorem readsS_eq_false (h : writesS i = false) (htsx : i ≠ .tsx) : (meaningOf i).readsS = false := by
  cases i with
  | tsx => exact absurd rfl htsx
  | _ => first | rfl | cases h

end

/-- The meaning reads what the override replaces. -/
def Override.seenBy : Override → Meaning → Bool
  | .a _, m => m.readsA
  | .x _, m => m.readsX
  | .y _, m => m.readsY
  | .sp _, m => m.readsS
  | .d _, m => m.readsD

/-- The meaning writes what the override replaces. -/
def Override.writtenBy : Override → Meaning → Bool
  | .a _, m => m.writesA
  | .x _, m => m.writesX
  | .y _, m => m.writesY
  | .sp _, m => m.writesS
  | .d _, m => m.writesD

/-- The override as it survives a meaning: it is gone where the meaning wrote. -/
def Override.carry (o : Override) (m : Meaning) (t : State) : State := if o.writtenBy m then t else o.apply t

section
variable {o : Override} {m : Meaning} {s : State}

theorem Override.carry_of_kept (h : o.writtenBy m = false) (t : State) : o.carry m t = o.apply t := by
  rw [carry, h]; rfl

theorem Override.advance_carry (t : State) (len : Nat) : (o.carry m t).advance len = o.carry m (t.advance len) := by
  unfold carry
  split
  · rfl
  · exact advance_apply o t len

theorem Override.holdMask_carry (t : State) (b : Bool) : (o.carry m t).holdMask b = o.carry m (t.holdMask b) := by
  unfold carry
  split
  · rfl
  · exact holdMask_apply o t b

/-! ## The reading class -/

/-- The overrides that ADC and SBC neither read nor write. -/
def Override.outsideSums : Override → Bool
  | .x _ | .y _ | .sp _ => true
  | .a _ | .d _ => false

theorem Override.binaryResult_apply (h : o.outsideSums = true) (r : Arith) : binaryResult r (o.apply s) = o.apply (binaryResult r s) := by
  cases o with
  | a | d => cases h
  | x | y | sp => rfl

theorem Override.decimalResult_apply (h : o.outsideSums = true) (valid : Bool) (r : Byte × Bool) :
    decimalResult valid r (o.apply s) = o.apply (decimalResult valid r s) := by
  unfold decimalResult
  rw [apply_sys]
  cases o with
  | a | d => cases h
  | x | y | sp => split <;> rfl

theorem Override.apply_operands (h : o.outsideSums = true) : (o.apply s).a = s.a ∧ (o.apply s).p = s.p := by
  cases o with
  | a | d => cases h
  | x | y | sp => exact ⟨rfl, rfl⟩

theorem Override.adc_apply (h : o.outsideSums = true) (v : Byte) : adc v (o.apply s) = o.apply (adc v s) := by
  obtain ⟨ha, hp⟩ := apply_operands (s := s) h
  unfold adc
  rw [ha, hp, binaryResult_apply h, decimalResult_apply h]
  exact (apply_ite o.apply _ _ _).symm

theorem Override.sbc_apply (h : o.outsideSums = true) (v : Byte) : sbc v (o.apply s) = o.apply (sbc v s) := by
  obtain ⟨ha, hp⟩ := apply_operands (s := s) h
  unfold sbc
  rw [ha, hp, binaryResult_apply h, decimalResult_apply h]
  exact (apply_ite o.apply _ _ _).symm

/-- An effect that does not read the register treats every value of it alike. -/
theorem Override.readOp_apply {e : ReadOp} {q : Operand} (h : o.seenBy (.reading e q) = false) (v : Byte) :
    e.run v (o.apply s) = o.carry (.reading e q) (e.run v s) := by
  cases e with
  | adc => cases o with
    | a | d => cases h
    | x | y | sp => exact adc_apply rfl v
  | sbc => cases o with
    | a | d => cases h
    | x | y | sp => exact sbc_apply rfl v
  | cmp | and | eor | ora | bit => cases o with
    | a => cases h
    | x | y | sp | d => rfl
  | cpx => cases o with
    | x => cases h
    | a | y | sp | d => rfl
  | cpy => cases o with
    | y => cases h
    | a | x | sp | d => rfl
  | lda | ldx | ldy => cases o <;> rfl

theorem Override.givesOperand_of_unseen {e : ReadOp} {q : Operand} (h : o.seenBy (.reading e q) = false) : o.givesOperand q = false := by
  cases o with
  | a => cases q with
    | accumulator => rw [seenBy, Meaning.readsA, Operand.isAccumulator, Bool.or_true] at h; cases h
    | immediate | memory => rfl
  | x => cases e with
    | cpx => cases h
    | _ => cases q <;> exact h
  | y => cases e with
    | cpy => cases h
    | _ => cases q <;> exact h
  | sp | d => cases q <;> rfl

theorem Override.reading_apply {e : ReadOp} {q : Operand} (h : o.seenBy (.reading e q) = false) :
    readClass q e.run (o.apply s) = mapNext (o.carry (.reading e q)) (readClass q e.run s) := by
  rw [readClass, load_apply (givesOperand_of_unseen h), onResult, andThen_assoc, readClass, mapNext, andThen_assoc]
  refine andThen_congr _ fun r => ?_
  rw [andThen_next, andThen_next, readOp_apply h, advance_carry]

/-! ## The storing and the modifying class -/

theorem Override.indexes_of_unseen_storing {r : StoreReg} {p : Place} (h : o.seenBy (.storing r p) = false) : o.indexes p = false := by
  cases o with
  | x => cases r with
    | x => cases h
    | a | y => exact h
  | y => cases r with
    | y => cases h
    | a | x => exact h
  | a | sp | d => rfl

theorem Override.value_of_unseen {r : StoreReg} {p : Place} (h : o.seenBy (.storing r p) = false) : r.value (o.apply s) = r.value s := by
  cases r with
  | a => cases o with
    | a => cases h
    | x | y | sp | d => rfl
  | x => cases o with
    | x => cases h
    | a | y | sp | d => rfl
  | y => cases o with
    | y => cases h
    | a | x | sp | d => rfl

theorem Override.storing_apply {r : StoreReg} {p : Place} (h : o.seenBy (.storing r p) = false) :
    storeClass p (r.value (o.apply s)) (o.apply s) = mapNext o.apply (storeClass p (r.value s) s) := by
  rw [value_of_unseen h, storeClass, locate_apply (indexes_of_unseen_storing h), onResult, andThen_assoc, storeClass, mapNext,
    andThen_assoc]
  refine andThen_congr _ fun w => ?_
  rw [andThen_next, writeByte_apply, mapNext, andThen_assoc, andThen_assoc]
  exact andThen_congr _ fun t => congrArg Host.Outcome.next (advance_apply o t p.length)

/-- No modification reads or writes D. -/
theorem Override.modifyOp_flags (o : Override) (m : ModifyOp) (v : Byte) (f : Flags) :
    m.run v (o.flags f) = ((m.run v f).1, o.flags (m.run v f).2) := by
  cases o <;> cases m <;> rfl

theorem Override.modifying_apply {m : ModifyOp} {p : Place} (h : o.indexes p = false) :
    modifyClass p m.run (o.apply s) = mapNext o.apply (modifyClass p m.run s) := by
  rw [modifyClass, locate_apply h, onResult, andThen_assoc, modifyClass, mapNext, andThen_assoc]
  refine andThen_congr _ fun w => ?_
  rw [andThen_next, readByte_apply, onResult, andThen_assoc, andThen_assoc]
  refine andThen_congr _ fun d => ?_
  rw [andThen_next, writeByte_apply, mapNext, andThen_assoc, andThen_assoc, apply_p, modifyOp_flags]
  refine andThen_congr _ fun t => ?_
  rw [andThen_next, andThen_next, setP_apply, advance_apply]

/-! ## Loads without operand -/

theorem Override.loading_apply {l : LoadOp} (h : o.seenBy (.loading l) = false) :
    (Meaning.loading l).run (o.apply s) = mapNext (o.carry (.loading l)) ((Meaning.loading l).run s) := by
  cases l with
  | tax | tay => cases o with
    | a => cases h
    | x | y | sp | d => rfl
  | dex | inx | txa => cases o with
    | x => cases h
    | a | y | sp | d => rfl
  | dey | iny | tya => cases o with
    | y => cases h
    | a | x | sp | d => rfl
  | tsx => cases o with
    | sp => cases h
    | a | x | y | d => rfl

/-! ## The stack -/

/-- The override leaves S alone. -/
def Override.keepsS : Override → Bool
  | .sp _ => false
  | _ => true

theorem Override.apply_sp (h : o.keepsS = true) : (o.apply s).sp = s.sp := by
  cases o with
  | sp => cases h
  | a | x | y | d => rfl

theorem Override.setSp_apply (h : o.keepsS = true) (v : Byte) : (o.apply s).setSp v = o.apply (s.setSp v) := by
  cases o with
  | sp => cases h
  | a | x | y | d => rfl

theorem Override.push_apply (h : o.keepsS = true) (v : Byte) : push v (o.apply s) = mapNext o.apply (push v s) := by
  rw [push, apply_sys, apply_sp h, writeByte_apply, mapNext, andThen_assoc, push, mapNext, andThen_assoc]
  refine andThen_congr _ fun t => ?_
  rw [andThen_next, andThen_next, apply_sp h, setSp_apply h]

theorem Override.pull_apply (h : o.keepsS = true) : pull (o.apply s) = o.onResult (pull s) := by
  rw [pull, apply_sys, apply_sp h, setSp_apply h, readByte_apply, pull]

theorem Override.pushWord_apply (h : o.keepsS = true) (w : Addr) : pushWord w (o.apply s) = mapNext o.apply (pushWord w s) := by
  rw [pushWord, push_apply h, mapNext, andThen_assoc, pushWord, mapNext, andThen_assoc]
  exact andThen_congr _ fun t => push_apply h (lowByte w)

theorem Override.pullWord_apply (h : o.keepsS = true) : pullWord (o.apply s) = o.onResult (pullWord s) := by
  rw [pullWord, pull_apply h, onResult, andThen_assoc, pullWord, onResult, andThen_assoc]
  refine andThen_congr _ fun low => ?_
  rw [andThen_next, pull_apply h, onResult, andThen_assoc, andThen_assoc]
  rfl

/-- An override that leaves S alone survives a meaning that writes neither A, X, Y nor D. -/
theorem Override.writtenBy_of_keepsS (h : o.keepsS = true) (ha : m.writesA = false) (hx : m.writesX = false)
    (hy : m.writesY = false) (hd : m.writesD = false) : o.writtenBy m = false := by
  cases o with
  | a => exact ha
  | x => exact hx
  | y => exact hy
  | sp => cases h
  | d => exact hd

/-- The override leaves P alone. -/
def Override.keepsP : Override → Bool
  | .d _ => false
  | _ => true

theorem Override.flags_of_keepsP (h : o.keepsP = true) (f : Flags) : o.flags f = f := by
  cases o with
  | d => cases h
  | a | x | y | sp => rfl

theorem Override.pushStatus_apply (h : o.keepsS = true) (hp : o.keepsP = true) (who : Pusher) :
    pushStatus who (o.apply s) = mapNext o.apply (pushStatus who s) := by
  have hstatus : statusByte who (o.apply s) = statusByte who s :=
    statusByte_congr (o.apply_sys s) ((o.apply_p s).trans (flags_of_keepsP hp s.p)) (o.apply_draws s) who
  have hafter : afterStatusByte (o.apply s) = o.apply (afterStatusByte s) := by
    unfold afterStatusByte
    rw [apply_sys, apply_draws, setDraws_apply]
    split <;> rfl
  rw [pushStatus, hstatus, hafter, push_apply h, pushStatus]

theorem Override.jumpVia_apply (vec : Addr) : jumpVia vec (o.apply s) = mapNext o.apply (jumpVia vec s) := by
  rw [jumpVia, read16, readPair_apply, onResult, andThen_assoc, jumpVia, read16, mapNext, andThen_assoc]
  exact andThen_congr _ fun r => congrArg Host.Outcome.next (setPc_apply o r.2 r.1)

theorem Override.enterInterrupt_apply (h : o.keepsS = true) (hp : o.keepsP = true) (vec w : Addr) (who : Pusher) :
    enterInterrupt vec w who (o.apply s) = mapNext o.apply (enterInterrupt vec w who s) := by
  rw [enterInterrupt, pushWord_apply h, mapNext, andThen_assoc, enterInterrupt, mapNext, andThen_assoc]
  refine andThen_congr _ fun t => ?_
  rw [andThen_next, pushStatus_apply h hp, mapNext, andThen_assoc, andThen_assoc]
  refine andThen_congr _ fun u => ?_
  have hset : (o.apply u).setP { (o.apply u).p with i := true } = o.apply (u.setP { u.p with i := true }) := by
    rw [apply_p, flags_of_keepsP hp, ← setP_apply, flags_of_keepsP hp]
  rw [andThen_next, hset, jumpVia_apply, mapNext]

/-! ## Every meaning -/

/-- Whole new flags overwrite D; any other override stays. -/
theorem Override.setP_apply_whole (hs : o.keepsS = true) (f : Flags) : (o.apply s).setP f = o.carry .plp (s.setP f) := by
  cases o with
  | sp => cases hs
  | a | x | y | d => rfl

theorem Override.rti_apply (h : o.keepsS = true) : execRti (o.apply s) = mapNext (o.carry .rti) (execRti s) := by
  rw [execRti, returnFromInterrupt, pull_apply h, onResult, andThen_assoc, execRti, returnFromInterrupt, mapNext, andThen_assoc]
  refine andThen_congr _ fun w => ?_
  rw [andThen_next, setP_apply_whole h, andThen_assoc]
  cases o with
  | sp => cases h
  | d => exact andThen_congr (pullWord (w.2.setP (flagsOf w.1))) fun _ => rfl
  | a v | x v | y v =>
    rw [carry_of_kept rfl, pullWord_apply h, onResult, andThen_assoc]
    rfl

theorem Override.plp_apply (h : o.keepsS = true) : execPlp (o.apply s) = mapNext (o.carry .plp) (execPlp s) := by
  have hi : (o.apply s).p.i = s.p.i := by cases o <;> rfl
  rw [execPlp, hi, pull_apply h, onResult, andThen_assoc, execPlp, mapNext, andThen_assoc]
  refine andThen_congr _ fun w => ?_
  rw [andThen_next, andThen_next, setP_apply_whole h, holdMask_carry, advance_carry]

theorem Override.pla_apply (h : o.keepsS = true) : execPla (o.apply s) = mapNext (o.carry .pla) (execPla s) := by
  rw [execPla, pull_apply h, onResult, andThen_assoc, execPla, mapNext, andThen_assoc]
  refine andThen_congr _ fun w => ?_
  cases o with
  | sp => cases h
  | a | x | y | d => rfl

/-- What a meaning does not read makes no difference to it. -/
theorem Override.run_apply (h : o.seenBy m = false) : m.run (o.apply s) = mapNext (o.carry m) (m.run s) := by
  have hstack (hm : m.readsS = true) : o.keepsS = true := by
    cases o with
    | sp => exact absurd hm (by rw [seenBy] at h; simp [h])
    | a | x | y | d => rfl
  have hflags (hm : m.readsD = true) : o.keepsP = true := by
    cases o with
    | d => exact absurd hm (by rw [seenBy] at h; simp [h])
    | a | x | y | sp => rfl
  have hkept (hw : o.writtenBy m = false) : o.carry m = o.apply := funext (carry_of_kept hw)
  cases m with
  | reading e q => exact reading_apply h
  | storing r p =>
    rw [hkept (by cases o <;> rfl)]
    exact storing_apply h
  | modifying m p =>
    rw [hkept (by cases o <;> rfl)]
    exact modifying_apply (by cases o <;> exact h)
  | modifyingA m => cases o with
    | a => cases h
    | x | y | sp => rfl
    | d b =>
      rw [Meaning.run, modifyA, apply_p, modifyOp_flags]
      rfl
  | branching flag wanted n => cases o <;> cases flag <;> cases wanted <;> rfl
  | flagging f => cases o <;> cases f <;> rfl
  | masking i =>
    have hi : (o.apply s).p.i = s.p.i := by cases o <;> rfl
    have hset : (o.apply s).setP { (o.apply s).p with i := i } = o.apply (s.setP { s.p with i := i }) := by cases o <;> rfl
    rw [hkept (by cases o <;> rfl), Meaning.run, hi, hset, holdMask_apply, advance_apply]
    rfl
  | loading l => exact loading_apply h
  | txs => cases o with
    | x | sp => cases h
    | a | y | d => rfl
  | nop | jmp nn => cases o <;> rfl
  | jmpIndirect nn =>
    rw [hkept (by cases o <;> rfl), Meaning.run, execJmpInd, readPointer_apply, onResult, andThen_assoc, Meaning.run, execJmpInd,
      mapNext, andThen_assoc]
    exact andThen_congr _ fun r => congrArg Host.Outcome.next (setPc_apply o r.2 r.1)
  | jsr nn =>
    have hS := hstack rfl
    rw [hkept (writtenBy_of_keepsS hS rfl rfl rfl rfl), Meaning.run, execJsrAbs, apply_pc, pushWord_apply hS, mapNext, andThen_assoc,
      Meaning.run, execJsrAbs, mapNext, andThen_assoc]
    exact andThen_congr _ fun t => congrArg Host.Outcome.next (setPc_apply o t nn)
  | rts =>
    have hS := hstack rfl
    rw [hkept (writtenBy_of_keepsS hS rfl rfl rfl rfl), Meaning.run, execRts, pullWord_apply hS, onResult, andThen_assoc, Meaning.run,
      execRts, mapNext, andThen_assoc]
    exact andThen_congr _ fun r => congrArg Host.Outcome.next (setPc_apply o r.2 (r.1 + 1))
  | brk =>
    have hS := hstack rfl
    rw [hkept (writtenBy_of_keepsS hS rfl rfl rfl rfl), Meaning.run, execBrk, apply_pc, enterInterrupt_apply hS (hflags rfl)]
    rfl
  | rti => exact rti_apply (hstack rfl)
  | pha =>
    have hS := hstack rfl
    have ha : (o.apply s).a = s.a := by
      cases o with
      | a => cases h
      | x | y | sp | d => rfl
    rw [hkept (writtenBy_of_keepsS hS rfl rfl rfl rfl), Meaning.run, execPha, ha, push_apply hS, mapNext, andThen_assoc, Meaning.run,
      execPha, mapNext, andThen_assoc]
    exact andThen_congr _ fun t => congrArg Host.Outcome.next (advance_apply o t 1)
  | php =>
    have hS := hstack rfl
    rw [hkept (writtenBy_of_keepsS hS rfl rfl rfl rfl), Meaning.run, execPhp, pushStatus_apply hS (hflags rfl), mapNext, andThen_assoc,
      Meaning.run, execPhp, mapNext, andThen_assoc]
    exact andThen_congr _ fun t => congrArg Host.Outcome.next (advance_apply o t 1)
  | pla => exact pla_apply (hstack rfl)
  | plp => exact plp_apply (hstack rfl)

end

/-- The same for an instruction. -/
theorem Override.exec_apply {o : Override} {i : Instr} (h : o.seenBy (meaningOf i) = false) (s : State) :
    exec i (o.apply s) = mapNext (o.carry (meaningOf i)) (exec i s) := by
  rw [exec_eq_run, exec_eq_run, run_apply h]

/-- Settles O42: only what an instruction reads makes a difference to it. -/
theorem readsOnlyNamedRegisters : Obligations.ReadsOnlyNamedRegisters := by
  intro i s v b
  rw [readsA_eq, readsX_eq, readsY_eq, readsD_eq, writesA_eq, writesX_eq, writesY_eq, writesD_eq]
  refine ⟨fun h => Override.exec_apply (o := .a v) h s, fun h => Override.exec_apply (o := .x v) h s,
    fun h => Override.exec_apply (o := .y v) h s, fun h htsx => ?_, fun h => Override.exec_apply (o := .d b) h s⟩
  have hexec := Override.exec_apply (o := .sp v) (readsS_eq_false h htsx) s
  rwa [show (Override.sp v).carry (meaningOf i) = (Override.sp v).apply from
    funext (Override.carry_of_kept ((writesS_eq i).symm.trans h))] at hexec

end Sys2Proof.Machine
end
